-- ==== Sys2Proof/Word.lean ====
section
/-! DEFINITION. The bit-vector types of the block (spec R9, R20): bytes, 16-bit chunk lengths and indices,
32-bit request, response and status words, and the 64-bit container of a handler or context value. -/

namespace Sys2Proof

/-- A byte, 0..255 (R9): opcodes, keys, selects, chunk and payload bytes. -/
abbrev Byte := BitVec 8

/-- A 16-bit value: chunk length and chunk index (R20 `feed_len`, `feed_idx`). -/
abbrev Half := BitVec 16

/-- A 32-bit word: host request, host response, status word, feed counter (R71, R74, R84, R26). -/
abbrev Word := BitVec 32

/-- The container of a HANDLER or CONTEXT value: the widest the parameters allow (R7: 1 to 64 bits). -/
abbrev Wide := BitVec 64

end Sys2Proof
end

