-- ==== Sys2Proof/Config.lean ====
section
/-! DEFINITION. The configuration of the block (spec R7, R8, R21): what is fixed when it is built, and the free
values the spec leaves open. `Config` is valid by construction: the functions of Machine/Rom.lean that read it
make P_SCHEMA(0x67) = Fixed(11), every Fixed(n) has n ≤ 11, capacities are at least 1 and widths lie in 1..64, so
a configuration that R7 rejects cannot be written down (log entries 1 and 2). -/

namespace Sys2Proof

/-- P_ACC_CAP, the accumulator's capacity in bytes (R7, R25; spec decision D2). -/
abbrev accCap : Nat := 11

/-- The accumulator's fill count, an integer 0..P_ACC_CAP (R20). -/
abbrev FillCount := Fin 12

/-- A callback entry (R27), of which R7 leaves open how many there are and how wide `handler` and `context` are. -/
structure Entry where
  key     : Byte
  handler : Wide
  context : Wide
  deriving DecidableEq, Repr, Inhabited

/-- A command-length ROM class (R21): `Fixed(n)` has n in 0..11 by its type. -/
inductive OpClass where
  | invalid
  | fixed (n : Fin 12)
  | dataBlock
  deriving DecidableEq, Repr, Inhabited

/-- The parameters R7 leaves OPEN. -/
structure Config where
  /-- P_SCHEMA, the ROM's contents: the first pair listed for an opcode gives its class, an opcode with no pair is
  `Invalid`, and 0x67 is `Fixed(11)` whatever is listed (R8). Every P_SCHEMA of R7 is such a list. -/
  table : List (Byte × OpClass)
  /-- P_REG_CAP_EVT less one (R7: P_REG_CAP_EVT ≥ 1). -/
  evtCapLess1 : Nat
  /-- P_REG_CAP_CMD less one (R7: P_REG_CAP_CMD ≥ 1). -/
  cmdCapLess1 : Nat
  /-- P_HANDLER_W less one (R7: 1 ≤ P_HANDLER_W ≤ 64). -/
  handlerWLess1 : Fin 64
  /-- P_CONTEXT_W less one (R7: 1 ≤ P_CONTEXT_W ≤ 64). -/
  contextWLess1 : Fin 64
  deriving DecidableEq, Repr, Inhabited

/-- The configuration this hardware was built with. The spec gives none of it but P_SCHEMA(0x67) (R8,
91_not_in_source.md N1), so it has no body: nothing can be proved of its contents. Log entry 1. -/
opaque Config.hardware : Config

/-- The fields R153 leaves unspecified after DESTROY. -/
structure FreeDecoder where
  curValid  : Bool
  curOp     : Byte
  fill      : FillCount
  acc       : Vector Byte accCap
  feedsDone : Word
  deriving DecidableEq, Repr, Inhabited

/-- Free value: what DESTROY leaves in the decoder fields (R153; 93_implementation_defined.md U19), one draw for
each value of the state's draw counter. Log entry 4. -/
opaque Config.freeDecoder : Nat → FreeDecoder

/-- Free value: `feed_len` and `feed_idx` after CREATE, RESET and DESTROY (R20, R30), one pair for each value of the
draw counter. Log entry 13. -/
opaque Config.freeFeed : Nat → Half × Half

/-- Free value: the table entries CREATE and DESTROY leave (R20, R27; never read), by draw counter, table (`true` for
the command table) and index. Log entry 14. -/
opaque Config.freeEntry : Nat → Bool → Nat → Entry

/-- Free value: status word 2 or 3, by select, for a count that needs more than 32 bits. R85 says zext_32 of the
count, which does not exist there, and R7 bounds the capacities only from below: the spec states no word.
DESIGN CHOICE, log entry 23. -/
opaque Config.freeCountWord : Byte → Nat → Word

/-- Free value: the bits of a status word read while `life = Uninit` (R87; spec decision D38). Log entry 5. -/
opaque Config.freeStatusWord : Nat → Word

end Sys2Proof
end

