-- ==== Sys2Proof/Machine/Rom.lean ====
section
/-! DEFINITION. Reading the configuration: the command-length ROM (spec R21, R22), its entry encoding (R79), the
capacities and widths (R7), and the acceptance of a configuration at build time (R7, R79; spec decision D32). -/

namespace Sys2Proof

/-- EVT_CHUNK, the one event id the block dispatches (R7, R110). -/
def evtChunk : Byte := 0x01

/-- SCHEMA(b), the ROM entry of opcode byte b (R22). -/
def Config.schema (c : Config) (b : Byte) : OpClass :=
  if b = 0x67 then .fixed 11 else (c.table.lookup b).getD .invalid

/-- len(op): n when SCHEMA(op) = Fixed(n), undefined otherwise (R22). -/
def Config.lenOf (c : Config) (op : Byte) : Option Nat :=
  match c.schema op with
  | .fixed n => some n.val
  | .invalid => none
  | .dataBlock => none

/-- P_REG_CAP_EVT (R7). -/
def Config.evtCap (c : Config) : Nat := c.evtCapLess1 + 1

/-- P_REG_CAP_CMD (R7). -/
def Config.cmdCap (c : Config) : Nat := c.cmdCapLess1 + 1

/-- P_HANDLER_W (R7). -/
def Config.handlerW (c : Config) : Nat := c.handlerWLess1.val + 1

/-- P_CONTEXT_W (R7). -/
def Config.contextW (c : Config) : Nat := c.contextWLess1.val + 1

/-- The low `w` bits of a value, zero-extended: the `w` wires that carry it (R73). -/
def lowBits (w : Nat) (v : Wide) : Wide := BitVec.ofNat 64 (v.toNat % 2 ^ w)

/-- R79: the class an 8-bit ROM entry encodes; none for an entry the spec rejects. -/
def romClass (e : Byte) : Option OpClass :=
  let n := (e.extractLsb' 0 4).toNat
  match (e.extractLsb' 6 2).toNat, (e.extractLsb' 4 2).toNat with
  | 0, 0 => if n = 0 then some .invalid else none
  | 0, 1 => if h : n < 12 then some (.fixed ⟨n, h⟩) else none
  | 0, 2 => if n = 0 then some .dataBlock else none
  | _, _ => none

/-- R79: the 8-bit ROM entry of a class. -/
def romEntry : OpClass → Byte
  | .invalid => 0x00
  | .fixed n => 0x10 + BitVec.ofNat 8 n.val
  | .dataBlock => 0x20

/-- The configuration channel (R70): a 256-entry ROM, two capacities and two widths. None when R7 or R79 rejects
them: no instance exists under such a configuration (spec decision D32). -/
def Config.build (rom : List Byte) (evtCap cmdCap handlerW contextW : Nat) : Option Config :=
  match rom.mapM romClass with
  | none => none
  | some classes =>
    if h : classes.length = 256 ∧ classes[0x67]? = some (.fixed 11) ∧ 1 ≤ evtCap ∧ 1 ≤ cmdCap ∧
        (1 ≤ handlerW ∧ handlerW ≤ 64) ∧ (1 ≤ contextW ∧ contextW ≤ 64) then
      some
        { table := ((List.range 256).map (BitVec.ofNat 8)).zip classes
          evtCapLess1 := evtCap - 1
          cmdCapLess1 := cmdCap - 1
          handlerWLess1 := ⟨handlerW - 1, by omega⟩
          contextWLess1 := ⟨contextW - 1, by omega⟩ }
    else none

end Sys2Proof
end

