-- ==== Sys2Proof/Syntax.lean ====
section
/-! DEFINITION. The operations of the block: one constructor of `Instr` for each row of spec/opcode_table.json, the
host request (spec R71, R73) and the two forms in which an operation reaches the block. -/

namespace Sys2Proof

/-- A host request as it stands on the request channel (R70): the 32-bit word and the sideband values (R73). An
operation that carries no HANDLER, CONTEXT or data ignores that field (log entry 17). -/
structure Request where
  word    : Word
  handler : Wide := 0
  context : Wide := 0
  data    : List Byte := []
  deriving DecidableEq, Repr

/-- How an operation reaches the block: as a host request, or as one byte of the chunk of the running FEED (R70,
R78). -/
inductive Encoded where
  | request (r : Request)
  | byte (b : Byte)
  deriving DecidableEq, Repr

/-- The operations. The first nine are host requests (R72), the last seven the per-byte actions of a FEED, taken
after the byte's event dispatch has succeeded (R121). -/
inductive Instr where
  /-- CREATE (R150). -/
  | create
  /-- RESET (R151). -/
  | reset
  /-- DESTROY (R153). -/
  | destroy
  /-- REG_EVENT: event id, HANDLER, CONTEXT (R100). -/
  | regEvent (key : Byte) (handler context : Wide)
  /-- REG_COMMAND: opcode, HANDLER, CONTEXT (R101). -/
  | regCommand (key : Byte) (handler context : Wide)
  /-- FEED: LEN and the data bytes that travel with it (R120). -/
  | feed (len : Half) (data : List Byte)
  /-- STATUS_READ: SEL (R154). -/
  | statusRead (sel : Byte)
  /-- RESERVED_OP7: OP = 111, RSV any (R155). -/
  | reservedOp7 (rsv : BitVec 5)
  /-- ILLEGAL_RSV: RSV nonzero, OP other than 111 (R75). -/
  | illegalRsv (op : BitVec 3) (rsv : BitVec 5)
  /-- STREAM_67_FIXED11: the opcode byte 0x67 in Idle (R141). -/
  | stream67Fixed11
  /-- STREAM_FIXED0: an opcode byte of class Fixed(0) in Idle (R125). -/
  | streamFixed0 (b : Byte)
  /-- STREAM_FIXEDN: an opcode byte of class Fixed(n), n ≥ 1, in Idle (R129). -/
  | streamFixedN (b : Byte)
  /-- STREAM_INVALID: an opcode byte of class Invalid in Idle (R126). -/
  | streamInvalid (b : Byte)
  /-- STREAM_DATABLOCK: an opcode byte of class DataBlock in Idle (R127). -/
  | streamDataBlock (b : Byte)
  /-- STREAM_PAYLOAD_BYTE: a byte in Accumulating with fill < len(cur_op) (R130). -/
  | streamPayloadByte (b : Byte)
  /-- STREAM_PENDING_BYTE: a byte in completion-pending, fill = len(cur_op) (R134). -/
  | streamPendingByte (b : Byte)
  deriving DecidableEq, Repr

end Sys2Proof
end

