-- ==== Sys2Proof/WellFormed.lean ====
section
/-! DEFINITION. Which terms of `Instr` are operations of a block with configuration `c`: those some request or
stream byte encodes. -/

namespace Sys2Proof

/-- A sideband value that fits the `w` wires that carry it (R73). -/
def fits (w : Nat) (v : Wide) : Bool := v.toNat < 2 ^ w

/-- The class constraint of each row of spec/opcode_table.json, the widths of R73, and the data count of R73. -/
def Instr.wf (c : Config) : Instr → Bool
  | .create => true
  | .reset => true
  | .destroy => true
  | .regEvent _ h x => fits c.handlerW h && fits c.contextW x
  | .regCommand _ h x => fits c.handlerW h && fits c.contextW x
  | .feed len data => data.length == len.toNat
  | .statusRead _ => true
  | .reservedOp7 _ => true
  | .illegalRsv op rsv => op != 7 && rsv != 0
  | .stream67Fixed11 => true
  | .streamFixed0 b => c.schema b == .fixed 0
  | .streamFixedN b => b != 0x67 && (c.lenOf b).any (1 ≤ ·)
  | .streamInvalid b => c.schema b == .invalid
  | .streamDataBlock b => c.schema b == .dataBlock
  | .streamPayloadByte _ => true
  | .streamPendingByte _ => true

end Sys2Proof
end

