-- ==== Sys2Proof/Decode.lean ====
section
/-! DEFINITION. Decoding a host request (spec R71, R72, R75) and a stream byte (R78, R124, R130, R134), and the
encoder. Every request word decodes: an illegal one decodes to the operation that answers ILLEGAL. A stream byte is
rejected, by name, only in a decoder state that R31 rules out. -/

namespace Sys2Proof

/-- The decoder's abstract state (R32), which selects the row a stream byte falls under. -/
inductive DecState where
  | idle
  | accumulating (op : Byte) (fill : Nat)
  deriving DecidableEq, Repr

/-- Why a stream byte has no row. Both are ruled out by R31. -/
inductive Reject where
  /-- The pending opcode's class is not Fixed(n): len(cur_op) is undefined (R22). -/
  | lenUndefined
  /-- fill exceeds len(cur_op) (R31, point 2). -/
  | fillBeyondLen
  deriving DecidableEq, Repr

/-! The fields of a request word (R71). -/

def opField (w : Word) : BitVec 3 := w.extractLsb' 0 3
def rsvField (w : Word) : BitVec 5 := w.extractLsb' 3 5
def keyField (w : Word) : Byte := w.extractLsb' 8 8
def lenField (w : Word) : Half := w.extractLsb' 16 16

/-- A request word made of its fields (R71). -/
def requestWord (op : BitVec 3) (rsv : BitVec 5) (key : Byte) (len : Half) : Word :=
  len ++ key ++ rsv ++ op

/-- R72 and R75 with R73's sideband: OP = 111 is RESERVED_OP7 whatever RSV holds (the table's order of rows, log
entry 10), any other word with a bit of RSV set is ILLEGAL_RSV, and unused fields are ignored (R76). -/
def decodeRequest (c : Config) (r : Request) : Instr :=
  let op := opField r.word
  let rsv := rsvField r.word
  let key := keyField r.word
  if op = 7 then .reservedOp7 rsv
  else if rsv ≠ 0 then .illegalRsv op rsv
  else if op = 0 then .create
  else if op = 1 then .reset
  else if op = 2 then .destroy
  else if op = 3 then .regEvent key (lowBits c.handlerW r.handler) (lowBits c.contextW r.context)
  else if op = 4 then .regCommand key (lowBits c.handlerW r.handler) (lowBits c.contextW r.context)
  else if op = 5 then .feed (lenField r.word) r.data
  else .statusRead key

/-- R124: the row of an opcode byte in Idle. -/
def decodeOpcode (c : Config) (b : Byte) : Instr :=
  if b = 0x67 then .stream67Fixed11
  else
    match c.schema b with
    | .invalid => .streamInvalid b
    | .fixed n => if n = 0 then .streamFixed0 b else .streamFixedN b
    | .dataBlock => .streamDataBlock b

/-- The row of a stream byte: classified in Idle (R124), never classified in Accumulating (R128, R130, R134). -/
def decodeStream (c : Config) (d : DecState) (b : Byte) : Except Reject Instr :=
  match d with
  | .idle => .ok (decodeOpcode c b)
  | .accumulating op fill =>
    match c.lenOf op with
    | none => .error .lenUndefined
    | some n =>
      if fill = n then .ok (.streamPendingByte b)
      else if fill < n then .ok (.streamPayloadByte b)
      else .error .fillBeyondLen

/-- Decoding either form. -/
def decode (c : Config) (d : DecState) : Encoded → Except Reject Instr
  | .request r => .ok (decodeRequest c r)
  | .byte b => decodeStream c d b

/-- The request or stream byte of an operation: the fields it does not use are 0 (R76), sideband it does not carry
is absent (R73). -/
def encode : Instr → Encoded
  | .create => .request { word := requestWord 0 0 0 0 }
  | .reset => .request { word := requestWord 1 0 0 0 }
  | .destroy => .request { word := requestWord 2 0 0 0 }
  | .regEvent key h x => .request { word := requestWord 3 0 key 0, handler := h, context := x }
  | .regCommand key h x => .request { word := requestWord 4 0 key 0, handler := h, context := x }
  | .feed len data => .request { word := requestWord 5 0 0 len, data := data }
  | .statusRead sel => .request { word := requestWord 6 0 sel 0 }
  | .reservedOp7 rsv => .request { word := requestWord 7 rsv 0 0 }
  | .illegalRsv op rsv => .request { word := requestWord op rsv 0 0 }
  | .stream67Fixed11 => .byte 0x67
  | .streamFixed0 b => .byte b
  | .streamFixedN b => .byte b
  | .streamInvalid b => .byte b
  | .streamDataBlock b => .byte b
  | .streamPayloadByte b => .byte b
  | .streamPendingByte b => .byte b

/-- The decoder state in which a stream row applies (the table's "select"); a host request is decoded the same in
every decoder state. -/
def Instr.selectedIn (c : Config) (d : DecState) : Instr → Bool
  | .create | .reset | .destroy | .regEvent .. | .regCommand .. | .feed .. | .statusRead _ => true
  | .reservedOp7 _ | .illegalRsv .. => true
  | .stream67Fixed11 | .streamFixed0 _ | .streamFixedN _ | .streamInvalid _ | .streamDataBlock _ => d == .idle
  | .streamPayloadByte _ =>
    match d with
    | .idle => false
    | .accumulating op fill => (c.lenOf op).any (fill < ·)
  | .streamPendingByte _ =>
    match d with
    | .idle => false
    | .accumulating op fill => (c.lenOf op).any (fill = ·)

/-- What the bits of a row of spec/opcode_table.json stand for: the 8-bit word 0x67 is the one stream opcode the
table fixes, every other word is a host request word, and a FEED travels with LEN data bytes, here zeros. Log
entry 12. -/
def tableEncoded (nbits w : Nat) : Encoded :=
  if nbits ≤ 8 ∧ w = 0x67 then .byte 0x67
  else
    let word : Word := BitVec.ofNat 32 w
    .request { word := word, data := List.replicate (lenField word).toNat 0 }

/-- The operation the decoder reads from an opcode-table word, a stream opcode being read in Idle. -/
def decodeTableWord (nbits w : Nat) : Option Instr :=
  match decode Config.hardware .idle (tableEncoded nbits w) with
  | .ok i => some i
  | .error _ => none

end Sys2Proof
end

