-- ==== Sys2Proof/Machine/State.lean ====
section
/-! DEFINITION. The state of one instance (spec R20), the records on its output channels (R74, R81, R83), the
reasons a step can stop, and the power-on state (R190). -/

namespace Sys2Proof.Machine

/-- Instance existence (R20 `life`). -/
inductive Life where
  | uninit
  | live
  deriving DecidableEq, Repr

/-- The dispatch request out to the handler agent, if any (R20 `wait`). -/
inductive Wait where
  | none
  | event
  | command
  deriving DecidableEq, Repr

/-- The kind of a dispatch (R81, R174). -/
inductive Kind where
  | event
  | command
  deriving DecidableEq, Repr

/-- The handler agent's answer (R82). -/
inductive Answer where
  | ok
  | fail
  deriving DecidableEq, Repr

/-- Where the block stands in the byte step of the running FEED (R121): before the byte's event dispatch, or after
it, before the class action or the append. -/
inductive Phase where
  | event
  | action
  deriving DecidableEq, Repr

/-- A dispatch request record (R81). -/
structure DispatchRecord where
  kind    : Kind
  key     : Byte
  handler : Wide
  context : Wide
  plen    : Word
  payload : List Byte
  deriving DecidableEq, Repr

/-- A report record (R83). -/
structure ReportRecord where
  code  : Byte
  byte  : Byte
  index : Half
  deriving DecidableEq, Repr

/-- What leaves the block, on its three output channels (R70). -/
inductive Output where
  | response (w : Word)
  | dispatch (r : DispatchRecord)
  | report (r : ReportRecord)
  deriving DecidableEq, Repr

/-- What the handler agent does while a dispatch is out to it: answer (R108), or issue a host request to this
instance, of which only STATUS_READ is accepted (R194). -/
inductive AgentAct where
  | answer (a : Answer)
  | request (r : Request)
  deriving DecidableEq, Repr

/-- One instance. The first fourteen fields are the rows of R20, `chunk` is R50's fifth array, and the rest are the
model's own: the place in R121's algorithm, the inputs of the two other agents (R12), what the block has sent, the
number of free values drawn, and the configuration, which no step writes (R21). -/
structure State where
  /-- R20. -/
  life      : Life
  /-- R23: `current_command` is Some. -/
  curValid  : Bool
  /-- R23: the pending opcode; 0x00 when there is none. -/
  curOp     : Byte
  /-- R24: payload bytes collected. -/
  fill      : FillCount
  /-- R25: the accumulator. -/
  acc       : Vector Byte accCap
  /-- R26: completed FEEDs. -/
  feedsDone : Word
  /-- R27: length of the event sequence, 0..P_REG_CAP_EVT (R31, point 3, in Safety.lean's invariant: the bound is the
  configuration's). -/
  evtCount  : Nat
  /-- R20, R27: the event table, P_REG_CAP_EVT entries, of which the first `evtCount` are the sequence. -/
  evtTab    : List Entry
  /-- R27: length of the command sequence, 0..P_REG_CAP_CMD (as `evtCount`). -/
  cmdCount  : Nat
  /-- R20, R27: the command table, P_REG_CAP_CMD entries, of which the first `cmdCount` are the sequence. -/
  cmdTab    : List Entry
  /-- R30: a FEED is in progress. -/
  busy      : Bool
  /-- R30: its chunk length. -/
  feedLen   : Half
  /-- R30, R35: the index of the byte being processed. -/
  feedIdx   : Half
  /-- R30: the dispatch out to the handler agent. -/
  wait      : Wait
  /-- R50, R54: the chunk of the running FEED, captured as a value. -/
  chunk     : List Byte
  /-- R121: where the byte step stands. Log entry 16. -/
  phase     : Phase
  /-- Host requests not yet taken, oldest first (R12, R60). Log entry 7. -/
  inbox     : List Request
  /-- What the handler agent will do, oldest first (R108). Log entry 6. -/
  agent     : List AgentAct
  /-- Every record sent on the output channels, oldest first (R60). Log entry 8. -/
  out       : List Output
  /-- How many free values have been drawn. Log entries 4, 5, 13 and 14. -/
  draws     : Nat
  /-- The configuration (R7, R21). Log entry 1. -/
  cfg       : Config
  deriving DecidableEq, Repr

/-- Why the machine stops with a fault. The spec gives the block no such stop. All four are raised only in states
that R31 rules out, where R121's algorithm reads something that does not exist; the invariant of Safety.lean
excludes them. Each is safe: the hardware has no such state. Log entry 15. -/
inductive Fault where
  /-- Raised by the append of a payload byte with fill ≥ P_ACC_CAP (R52: the index is always inside the array). -/
  | accOverflow
  /-- Raised by the fetch of a stream byte when len(cur_op) is undefined (R22). -/
  | lenUndefined
  /-- Raised by the fetch of a stream byte when fill exceeds len(cur_op) (R31). -/
  | fillBeyondLen
  /-- Raised by the fetch of a stream byte at an index the chunk does not have (R54). -/
  | chunkOverrun
  deriving DecidableEq, Repr

/-- Why the block gives a request no meaning (R184): no response, no state change, and the run is not final. Each is
safe: nothing can be proved of what follows. Log entry 9. -/
inductive Refusal where
  /-- An instruction whose meaning is not written yet; raised in Dispatch.lean only, by no arm at present. -/
  | notModelled (mnemonic : String)
  /-- A request other than STATUS_READ while a FEED runs (R159 check 1, R194). -/
  | reentry
  /-- A legal request other than CREATE and STATUS_READ while `life = Uninit` (R159 check 3, R158). -/
  | uninit
  /-- A FEED whose data count differs from LEN (R159 check 4). -/
  | countMismatch
  deriving DecidableEq, Repr

/-- What a step or a meaning answers. -/
abbrev Result := Host.Outcome State Fault Refusal

/-- Power-on (R190): `life = Uninit`, `busy = 0`, `wait = None`. The spec leaves every other field a free value that
no rule reads before CREATE writes it; the values here are log entry 3's. -/
def State.reset : State where
  life      := .uninit
  curValid  := false
  curOp     := 0
  fill      := 0
  acc       := Vector.replicate accCap 0
  feedsDone := 0
  evtCount  := 0
  evtTab    := List.replicate Config.hardware.evtCap { key := 0, handler := 0, context := 0 }
  cmdCount  := 0
  cmdTab    := List.replicate Config.hardware.cmdCap { key := 0, handler := 0, context := 0 }
  busy      := false
  feedLen   := 0
  feedIdx   := 0
  wait      := .none
  chunk     := []
  phase     := .event
  inbox     := []
  agent     := []
  out       := []
  draws     := 0
  cfg       := Config.hardware

end Sys2Proof.Machine
end

