-- ==== Sys2Proof/Machine/Ops.lean ====
section
/-! DEFINITION. The shared operations: sending a record, the request checks (spec R159), the registry (R27, R100), the
dispatch arbiter (R104), the decoder's state changes (R129, R130, R132), and the ways a byte step and a FEED end
(R121, R136, R178). -/

namespace Sys2Proof.Machine

/-! ### Output channels (R70, R74, R83) -/

/-- Send one record. -/
def emit (o : Output) (s : State) : State := { s with out := s.out ++ [o] }

/-- End a host operation with response word `w` (R74). -/
def respond (w : Word) (s : State) : State := emit (.response w) s

/-- OK (R74). -/
def respOk : Word := 0x00000000
/-- FULL (R102). -/
def respFull : Word := 0x00000001
/-- ILLEGAL (R75). -/
def respIllegal : Word := 0x80000001
/-- SENTINEL, −2^31 (R77; spec decision D37). -/
def respSentinel : Word := 0x80000000

/-- Report(code, byte, index) for the byte being processed (R175): changes no state, never waits. -/
def report (code b : Byte) (s : State) : State :=
  emit (.report { code := code, byte := b, index := s.feedIdx }) s

/-- UNKNOWN_OPCODE (R83). -/
def codeUnknown : Byte := 0x01
/-- UNSUPPORTED_DATABLOCK (R83). -/
def codeDataBlock : Byte := 0x02

/-! ### Request checks (R159) -/

/-- Check 1: a request that is not a STATUS_READ is refused while a FEED runs (R194). -/
def checkBusy (s : State) (run : Result) : Result :=
  if s.busy then .refused .reentry else run

/-- Checks 1 and 3: the requests that also need a live instance (R158). -/
def checkLive (s : State) (run : Result) : Result :=
  checkBusy s (if s.life = .uninit then .refused .uninit else run)

/-! ### The callback registry (R27, R28, R53) -/

/-- The event sequence, `evt_tab[0..evt_count−1]` (R27). -/
def State.evtSeq (s : State) : List Entry := s.evtTab.take s.evtCount

/-- The command sequence, `cmd_tab[0..cmd_count−1]` (R27). -/
def State.cmdSeq (s : State) : List Entry := s.cmdTab.take s.cmdCount

/-- The sequence a dispatch scans (R104). -/
def State.seqOf (s : State) : Kind → List Entry
  | .event => s.evtSeq
  | .command => s.cmdSeq

/-- Write the entry at index `n`, the end of the sequence, and no other (R53). -/
def writeEntry (tab : List Entry) (n : Nat) (e : Entry) : List Entry := tab.take n ++ e :: tab.drop (n + 1)

/-- Append an event entry (R100). -/
def appendEvt (e : Entry) (s : State) : State :=
  { s with evtTab := writeEntry s.evtTab s.evtCount e, evtCount := s.evtCount + 1 }

/-- Append a command entry (R101). -/
def appendCmd (e : Entry) (s : State) : State :=
  { s with cmdTab := writeEntry s.cmdTab s.cmdCount e, cmdCount := s.cmdCount + 1 }

/-- A table of `n` entries with free values of the configured widths (R20 "unspec"; R27). Log entry 14. -/
def freeTab (c : Config) (draw : Nat) (command : Bool) (n : Nat) : List Entry :=
  (List.range n).map fun j =>
    let e := Config.freeEntry draw command j
    { key := e.key, handler := lowBits c.handlerW e.handler, context := lowBits c.contextW e.context }

/-- Empty both sequences: the counts are 0, and the table entries become unspecified (R20, R150, R153). Log
entry 14. -/
def emptyRegistry (s : State) : State :=
  { s with evtCount := 0, evtTab := freeTab s.cfg s.draws false s.cfg.evtCap
           cmdCount := 0, cmdTab := freeTab s.cfg s.draws true s.cfg.cmdCap
           draws := s.draws + 1 }

/-! ### The decoder state (R23, R24, R25) -/

/-- Idle or Accumulating (R32). -/
def State.decState (s : State) : DecState :=
  if s.curValid then .accumulating s.curOp s.fill.val else .idle

/-- Return to Idle: `cur_valid`, `cur_op` and `fill` only (R132, R151). -/
def clearCommand (s : State) : State :=
  { s with curValid := false, curOp := 0, fill := 0 }

/-- Enter Accumulating(op, 0) (R129). -/
def startCommand (op : Byte) (s : State) : State :=
  { s with curValid := true, curOp := op, fill := 0 }

/-- `acc[fill] <- b; fill <- fill + 1` (R130). -/
def appendByte (b : Byte) (s : State) : State :=
  { s with acc := s.acc.setIfInBounds s.fill.val b, fill := s.fill + 1 }

/-- The payload `acc[0..fill−1]` (R131). -/
def State.payload (s : State) : List Byte := s.acc.toList.take s.fill.val

/-! ### The end of a byte step and of a FEED (R121, R136, R178) -/

/-- Full success: `feeds_done` counts the FEED modulo 2^32, and the response is i32(L) (R136). -/
def finishFeed (s : State) : State :=
  respond (s.feedLen.setWidth 32) { s with feedsDone := s.feedsDone + 1, busy := false }

/-- Go on to byte i+1, or end the FEED when there is none (R35, R121). -/
def nextByte (s : State) : State :=
  if s.feedIdx.toNat + 1 < s.feedLen.toNat then
    { s with feedIdx := s.feedIdx + 1, phase := .event }
  else finishFeed s

/-- Take an abort: the FEED ends with the given response, `busy` and `wait` are released and every other field is
kept as it was (R178). There is no operation that returns from an abort (R179). -/
def abortFeed (w : Word) (s : State) : State :=
  respond w { s with busy := false, wait := .none }

/-- i32(−(i+1)) for the 0-based index i (R77, R88). -/
def failWord (i : Half) : Word := BitVec.ofInt 32 (-((i.toNat : Int) + 1))

/-- A handler failure at the byte being processed (R123, R125, R133). -/
def failFeed (s : State) : State := abortFeed (failWord s.feedIdx) s

/-! ### The codes of the two one-bit fields of the dispatch channels (R81, R82) -/

/-- R81: `kind` is 0 for Event, 1 for Command. -/
def Kind.bit : Kind → BitVec 1
  | .event => 0
  | .command => 1

/-- R82: the dispatch response is 0 for Ok, 1 for Fail. -/
def Answer.bit : Answer → BitVec 1
  | .ok => 0
  | .fail => 1

/-- R82, read from the channel: each value of the bit is an answer. -/
def Answer.ofBit (b : BitVec 1) : Answer := if b = 0 then .ok else .fail

/-! ### The dispatch arbiter (R104 to R109) -/

/-- The first entry whose key matches, in insertion order (R104). -/
def State.lookup (s : State) (k : Kind) (key : Byte) : Option Entry :=
  (s.seqOf k).find? (fun e => e.key == key)

/-- The value of `wait` while a dispatch of this kind is out (R30). -/
def Kind.wait : Kind → Wait
  | .event => .event
  | .command => .command

/-- The dispatch record of a matched entry (R81, R107). -/
def dispatchRecord (k : Kind) (key : Byte) (payload : List Byte) (e : Entry) : DispatchRecord :=
  { kind := k, key := key, handler := e.handler, context := e.context
    plen := BitVec.ofNat 32 payload.length, payload := payload }

/-- Hand the request to the handler agent and hold until it answers (R104, R108). -/
def sendDispatch (k : Kind) (key : Byte) (payload : List Byte) (e : Entry) (s : State) : State :=
  emit (.dispatch (dispatchRecord k key payload e)) { s with wait := k.wait }

/-- Dispatch(kind, key, payload): a matched entry's request is sent and the block waits; with no match the result is
Ok at once (R105), and `onOk` is what the caller does with Ok. -/
def dispatch (k : Kind) (key : Byte) (payload : List Byte) (onOk : State → State) (s : State) : State :=
  match s.lookup k key with
  | some e => sendDispatch k key payload e s
  | none => onOk s

/-- What the byte step does when its event dispatch gave Ok: go on to the class action or the append (R121). -/
def eventOk (s : State) : State := { s with phase := .action }

/-- What the byte step does when its command dispatch gave Ok: a completed command is cleared (R132), a Fixed(0)
command left nothing to clear (R125); then byte i+1. -/
def commandOk (s : State) : State :=
  nextByte (if s.curValid then clearCommand s else s)

/-- The handler agent's answer arrives: `wait <- None`, and the caller of the arbiter goes on (R104, R109). -/
def receiveAnswer (a : Answer) (s : State) : State :=
  match a, s.wait with
  | .fail, _ => failFeed s
  | .ok, .event => eventOk { s with wait := .none }
  | .ok, .command => commandOk { s with wait := .none }
  | .ok, .none => s

/-! ### Free values -/

/-- Draw what DESTROY leaves in the fields R153 calls unspecified. Log entry 4. -/
def drawDecoder (s : State) : State :=
  let f := Config.freeDecoder s.draws
  { s with curValid := f.curValid, curOp := f.curOp, fill := f.fill, acc := f.acc,
           feedsDone := f.feedsDone, draws := s.draws + 1 }

/-- Draw what `feed_len` and `feed_idx` hold after CREATE, RESET and DESTROY (R20 "unspec"). Log entry 13. -/
def drawFeed (s : State) : State :=
  { s with feedLen := (Config.freeFeed s.draws).1, feedIdx := (Config.freeFeed s.draws).2, draws := s.draws + 1 }

end Sys2Proof.Machine
end

