-- ==== Sys2Proof/Machine/Feed.lean ====
section
/-! DEFINITION. FEED and the actions of its byte step (spec 41_stream_decoder.md). A stream operation runs after the
byte's event dispatch has given Ok (R122); the index of the byte is `feed_idx`. -/

namespace Sys2Proof.Machine

/-- FEED (R120, R121): the chunk is captured as a value (R54) and the byte steps begin; an empty chunk is a full
success at once (R140). -/
def execFeed (len : Half) (data : List Byte) (s : State) : Result :=
  checkLive s <|
    if data.length = len.toNat then
      let s := { s with busy := true, feedLen := len, chunk := data }
      .next (if len = 0 then finishFeed s else { s with feedIdx := 0, phase := .event })
    else .refused .countMismatch

/-- The start of the longest command (R141, R129). -/
def execStream67Fixed11 (s : State) : Result :=
  .next (nextByte (startCommand 0x67 s))

/-- A zero-payload command (R125). -/
def execStreamFixed0 (b : Byte) (s : State) : Result :=
  .next (dispatch .command b [] commandOk s)

/-- The start of a command with a payload (R129). -/
def execStreamFixedN (b : Byte) (s : State) : Result :=
  .next (nextByte (startCommand b s))

/-- An unknown opcode: reported and skipped (R126). -/
def execStreamInvalid (b : Byte) (s : State) : Result :=
  .next (nextByte (report codeUnknown b s))

/-- An unsupported data block: reported, no effect on the state (R127). -/
def execStreamDataBlock (b : Byte) (s : State) : Result :=
  .next (nextByte (report codeDataBlock b s))

/-- A payload byte: append (R130), and dispatch the command when its payload is complete (R131, R135). -/
def execStreamPayloadByte (b : Byte) (s : State) : Result :=
  if s.fill.val < accCap then
    let s := appendByte b s
    .next (if s.cfg.lenOf s.curOp = some s.fill.val then dispatch .command s.curOp s.payload commandOk s
      else nextByte s)
  else .fault .accOverflow

/-- A byte in completion-pending: the FEED ends with SENTINEL (R134). -/
def execStreamPendingByte (_b : Byte) (s : State) : Result :=
  .next (abortFeed respSentinel s)

end Sys2Proof.Machine
end

