-- ==== Sys2Proof/Machine/Flags.lean ====
section
/-! DEFINITION. The status words (spec R84 to R87): how the state's bits are laid out for STATUS_READ. The block has
no condition codes (R36). -/

namespace Sys2Proof.Machine

/-- R84 bit 0. -/
def Life.bit : Life → BitVec 1
  | .uninit => 0
  | .live => 1

/-- R84 bits [4:3]. -/
def Wait.bits : Wait → BitVec 2
  | .none => 0b00
  | .event => 0b01
  | .command => 0b10

/-- Status word 0 (R84), from bit 31 down. -/
def statusMain (s : State) : Word :=
  (0 : BitVec 8) ++ BitVec.ofNat 8 s.fill.val ++ (if s.curValid then s.curOp else 0) ++ (0 : BitVec 3) ++
    s.wait.bits ++ BitVec.ofBool s.busy ++ BitVec.ofBool s.curValid ++ s.life.bit

/-- Byte `k` of the accumulator as STATUS_READ shows it: 0x00 at and above `fill` (R25, R86). -/
def shownByte (s : State) (k : Nat) : Byte :=
  if k < s.fill.val then s.acc.toList.getD k 0 else 0

/-- Status words 4 to 7 (R86): acc[4k+m] at bits [8m+7:8m] of word 4+k. -/
def statusAcc (s : State) (k : Nat) : Word :=
  shownByte s (4 * k + 3) ++ shownByte s (4 * k + 2) ++ shownByte s (4 * k + 1) ++ shownByte s (4 * k)

/-- Status words 2 and 3 (R85): zext_32 of the count. The spec states no word for a count that needs more than 32
bits; it is a free value there. DESIGN CHOICE, log entry 23. -/
def statusCount (sel : Byte) (n : Nat) : Word :=
  if n < 2 ^ 32 then BitVec.ofNat 32 n else Config.freeCountWord sel n

/-- Status word 8 (R87). -/
def statusFeed (s : State) : Word :=
  if s.busy then s.feedLen ++ s.feedIdx else 0

/-- status_word(SEL) while `life = Live` (R84 to R87). Words 2 and 3 of a count of 2^32 or more are log entry 23's. -/
def statusLive (s : State) (sel : Byte) : Word :=
  match sel.toNat with
  | 0 => statusMain s
  | 1 => s.feedsDone
  | 2 => statusCount sel s.evtCount
  | 3 => statusCount sel s.cmdCount
  | 4 => statusAcc s 0
  | 5 => statusAcc s 1
  | 6 => statusAcc s 2
  | 7 => statusAcc s 3
  | 8 => statusFeed s
  | _ => 0

/-- status_word(SEL) while `life = Uninit` (R87): a free value, whose bit 0 reads 0 in word 0. -/
def statusUninit (free : Word) (sel : Byte) : Word :=
  if sel = 0 then free &&& 0xFFFFFFFE else free

end Sys2Proof.Machine
end

