-- ==== Sys2Proof/Machine/Lifecycle.lean ====
section
/-! DEFINITION. CREATE, RESET, DESTROY, STATUS_READ and the illegal requests (spec 42_lifecycle_ops.md, R75). -/

namespace Sys2Proof.Machine

/-- CREATE (R150, R156): accepted in Uninit and in Live. `feed_len`, `feed_idx` and the table entries become
unspecified (R20). -/
def execCreate (s : State) : Result :=
  checkBusy s <| .next <| respond respOk <| drawFeed <| emptyRegistry <| clearCommand
    { s with life := .live, acc := Vector.replicate accCap 0, feedsDone := 0 }

/-- RESET (R151): the decoder state and the feed counter; the registry and `acc` are kept, `feed_len` and `feed_idx`
become unspecified (R20). -/
def execReset (s : State) : Result :=
  checkLive s <| .next <| respond respOk <| drawFeed <| clearCommand { s with feedsDone := 0 }

/-- DESTROY (R153): both sequences are emptied, and the decoder fields, the table entries and (R20) `feed_len` and
`feed_idx` become unspecified. -/
def execDestroy (s : State) : Result :=
  checkLive s <| .next <| respond respOk <| drawFeed <| drawDecoder <| emptyRegistry
    { s with life := .uninit }

/-- STATUS_READ (R154): never refused; in Uninit the word is a free value (R87). -/
def execStatusRead (sel : Byte) (s : State) : Result :=
  match s.life with
  | .live => .next (respond (statusLive s sel) s)
  | .uninit =>
    .next (respond (statusUninit (Config.freeStatusWord s.draws) sel) { s with draws := s.draws + 1 })

/-- OP = 111 (R155, R75): after the busy check, ILLEGAL and no effect. -/
def execReservedOp7 (_rsv : BitVec 5) (s : State) : Result :=
  checkBusy s <| .next <| respond respIllegal s

/-- RSV ≠ 0 (R75): ILLEGAL and no effect. While a FEED runs, check 1 of R159 refuses it unless OP = 110. Log
entry 11. -/
def execIllegalRsv (op : BitVec 3) (_rsv : BitVec 5) (s : State) : Result :=
  if op = 6 then .next (respond respIllegal s)
  else checkBusy s <| .next <| respond respIllegal s

end Sys2Proof.Machine
end

