-- ==== Sys2Proof/Machine/Operands.lean ====
section
/-! DEFINITION. The operand forms (spec R73, R88): the callback entry a registration's operands make, and the byte a
FEED reads from its chunk. No operand is extended, scaled or shifted. -/

namespace Sys2Proof.Machine

/-- The entry REG_EVENT and REG_COMMAND append (R27, R100): the operands unchanged. -/
def entryOf (key : Byte) (handler context : Wide) : Entry :=
  { key := key, handler := handler, context := context }

/-- ChunkRead(i) (R54). -/
def State.chunkRead (s : State) (i : Half) : Option Byte := s.chunk[i.toNat]?

end Sys2Proof.Machine
end

