-- ==== Sys2Proof/Machine/Registry.lean ====
section
/-! DEFINITION. The two registrations (spec R100 to R103). -/

namespace Sys2Proof.Machine

/-- REG_EVENT (R100): append, or FULL with no state change (R102). -/
def execRegEvent (key : Byte) (handler context : Wide) (s : State) : Result :=
  checkLive s <| .next <|
    if s.evtCount = s.cfg.evtCap then respond respFull s
    else respond respOk (appendEvt (entryOf key handler context) s)

/-- REG_COMMAND (R101): append, or FULL with no state change (R102). -/
def execRegCommand (key : Byte) (handler context : Wide) (s : State) : Result :=
  checkLive s <| .next <|
    if s.cmdCount = s.cfg.cmdCap then respond respFull s
    else respond respOk (appendCmd (entryOf key handler context) s)

end Sys2Proof.Machine
end

