-- ==== Sys2Proof/Machine/Dispatch.lean ====
section
/-! DEFINITION. The meaning of every operation: one arm per constructor of Instr. -/

namespace Sys2Proof.Machine

def exec (i : Instr) (s : State) : Host.Outcome State Fault Refusal :=
  match i with
  | .create => Sys2Proof.Machine.execCreate s
  | .reset => Sys2Proof.Machine.execReset s
  | .destroy => Sys2Proof.Machine.execDestroy s
  | .regEvent key handler context => Sys2Proof.Machine.execRegEvent key handler context s
  | .regCommand key handler context => Sys2Proof.Machine.execRegCommand key handler context s
  | .feed len data => Sys2Proof.Machine.execFeed len data s
  | .statusRead sel => Sys2Proof.Machine.execStatusRead sel s
  | .reservedOp7 rsv => Sys2Proof.Machine.execReservedOp7 rsv s
  | .illegalRsv op rsv => Sys2Proof.Machine.execIllegalRsv op rsv s
  | .stream67Fixed11 => Sys2Proof.Machine.execStream67Fixed11 s
  | .streamFixed0 b => Sys2Proof.Machine.execStreamFixed0 b s
  | .streamFixedN b => Sys2Proof.Machine.execStreamFixedN b s
  | .streamInvalid b => Sys2Proof.Machine.execStreamInvalid b s
  | .streamDataBlock b => Sys2Proof.Machine.execStreamDataBlock b s
  | .streamPayloadByte b => Sys2Proof.Machine.execStreamPayloadByte b s
  | .streamPendingByte b => Sys2Proof.Machine.execStreamPendingByte b s

end Sys2Proof.Machine
end

