-- ==== Sys2Proof/Machine/Turns.lean ====
section
/-! DEFINITION. What each of the three agents of spec R12 does at its turn, and where the next operation is fetched
from. The handler agent moves while a dispatch is out to it (R108), the block while a FEED runs (R121), the host
otherwise (R60, R195). An agent with nothing to do leaves the machine as it is. -/

namespace Sys2Proof.Machine

/-- The host issues its next request (R60). With none, the block does nothing (R188). -/
def hostTurn (s : State) : Result :=
  match s.inbox with
  | [] => .next s
  | r :: rest => exec (decodeRequest s.cfg r) { s with inbox := rest }

/-- The handler agent answers, or issues a request (R108, R194). With neither, the block goes on waiting (R203). -/
def agentTurn (s : State) : Result :=
  match s.agent with
  | [] => .next s
  | .answer a :: rest => .next (receiveAnswer a { s with agent := rest })
  | .request r :: rest => exec (decodeRequest s.cfg r) { s with agent := rest }

/-- The fault of a stream byte that has no row. -/
def rejectFault : Reject → Fault
  | .lenUndefined => .lenUndefined
  | .fillBeyondLen => .fillBeyondLen

/-- The operation the byte being processed stands for (R124, R130, R134). -/
def fetchStream (s : State) : Except Fault Instr :=
  match s.chunkRead s.feedIdx with
  | none => .error .chunkOverrun
  | some b =>
    match decodeStream s.cfg s.decState b with
    | .error e => .error (rejectFault e)
    | .ok i => .ok i

/-- One part of the byte step (R121): the event dispatch (R122), then the byte's own operation. -/
def blockTurn (s : State) : Result :=
  match s.phase with
  | .event => .next (dispatch .event evtChunk [] eventOk s)
  | .action =>
    match fetchStream s with
    | .error f => .fault f
    | .ok i => exec i s

/-- The agent whose turn it is. -/
def turn (s : State) : Result :=
  if s.wait ≠ .none then agentTurn s
  else if s.busy then blockTurn s
  else hostTurn s

/-- The request words that R159 runs on a live instance only: a legal word other than CREATE and STATUS_READ. -/
def needsLive (w : Word) : Bool :=
  rsvField w == 0 && opField w != 0 && opField w != 6 && opField w != 7

/-- Put an operation where the next turn fetches it. A host request goes to the head of the requests of whoever may
issue one: the handler agent while a dispatch is out, else the host, with no FEED running and, for a request that
needs one, a live instance (R192: the host has issued CREATE before it). A stream byte becomes the one byte of a
running FEED whose event dispatch has succeeded, the decoder being Idle. Log entry 12. -/
def placeFetch (s : State) : Encoded → State
  | .request r =>
    if s.wait ≠ .none then { s with agent := .request r :: s.agent }
    else { s with life := if needsLive r.word then .live else s.life, inbox := r :: s.inbox, busy := false }
  | .byte b =>
    { s with life := .live, curValid := false, curOp := 0, fill := 0, busy := true, feedLen := 1, feedIdx := 0,
             wait := .none, chunk := [b], phase := .action }

end Sys2Proof.Machine
end

