-- ==== Sys2Proof/Machine/Step.lean ====
section
/-! DEFINITION. One step of the machine, and the placing of an operation where the next step fetches it. -/

namespace Sys2Proof.Machine

/-- One step: the turn of the agent that moves next (spec R12). -/
def step (s : State) : Host.Outcome State Fault Refusal := turn s

/-- `s` with the operation of an opcode-table word placed where `step` fetches next. Log entry 12. -/
def State.withFetchWord (s : State) (nbits w : Nat) : State := placeFetch s (tableEncoded nbits w)

end Sys2Proof.Machine
end

