-- ==== Sys2Proof/Safety.lean ====
section
/-! DEFINITION. The invariant of a reachable state (spec R23, R24, R30, R31, R35, and the places R121 lets a running
FEED stand in), and what a safe step is. -/

namespace Sys2Proof.Machine

/-- R31, points 1 and 2: an idle decoder holds no fill and no opcode; a pending opcode's class is Fixed(n) with n ≥ 1
and fill ≤ n. -/
abbrev State.DecoderOk (s : State) : Prop :=
  (s.curValid = false → s.fill = 0 ∧ s.curOp = 0) ∧
  (s.curValid = true → (s.cfg.lenOf s.curOp).any (fun n => decide (1 ≤ n) && decide (s.fill.val ≤ n)) = true)

/-- R31, point 3, and R20: the counts lie within the capacities, and each table has as many entries as its capacity. -/
abbrev State.RegistryOk (s : State) : Prop :=
  s.evtCount ≤ s.cfg.evtCap ∧ s.cmdCount ≤ s.cfg.cmdCap ∧
  s.evtTab.length = s.cfg.evtCap ∧ s.cmdTab.length = s.cfg.cmdCap

/-- R30, R35, R54: a FEED runs on a live instance, its chunk has `feed_len` bytes, and `feed_idx` is one of them. -/
abbrev State.FeedOk (s : State) : Prop :=
  s.busy = true → s.life = .live ∧ s.chunk.length = s.feedLen.toNat ∧ s.feedIdx.toNat < s.feedLen.toNat

/-- R30 and R121: a dispatch is out only while a FEED runs; an event dispatch is the first thing of a byte step, a
command dispatch comes after it, and a command with a payload is dispatched with its whole payload (R131). -/
abbrev State.WaitOk (s : State) : Prop :=
  (s.wait ≠ .none → s.busy = true) ∧
  (s.wait = .event → s.phase = .event) ∧
  (s.wait = .command → s.phase = .action ∧ (s.curValid = true → s.cfg.lenOf s.curOp = some s.fill.val))

/-- The invariant. -/
abbrev State.Inv (s : State) : Prop :=
  (s.life = .live → s.DecoderOk) ∧ s.RegistryOk ∧ s.FeedOk ∧ s.WaitOk

/-- An entry's `handler` and `context` fit the configured widths (R20, R27). -/
abbrev entryFits (c : Config) (e : Entry) : Prop :=
  e.handler.toNat < 2 ^ c.handlerW ∧ e.context.toNat < 2 ^ c.contextW

/-- Every entry of both tables fits. -/
abbrev State.EntriesFit (s : State) : Prop :=
  (∀ e ∈ s.evtTab, entryFits s.cfg e) ∧ ∀ e ∈ s.cmdTab, entryFits s.cfg e

/-- A step that raises no fault. -/
def NoFault : Host.Outcome State Fault Refusal → Prop
  | .next _ => True
  | .refused _ => True
  | .fault _ => False

/-- A dispatch record the block may send: an event has key EVT_CHUNK and no payload (R110, R122); a command has an
opcode whose class is Fixed(n) and exactly n payload bytes (R111, R131); `plen` is the payload's length (R107). -/
def DispatchRecord.Ok (c : Config) (r : DispatchRecord) : Prop :=
  r.plen = BitVec.ofNat 32 r.payload.length ∧ r.payload.length ≤ accCap ∧
  match r.kind with
  | .event => r.key = evtChunk ∧ r.payload = []
  | .command => c.lenOf r.key = some r.payload.length

/-- The records among `l` that went to the handler agent, in order. -/
def dispatches (l : List Output) : List DispatchRecord :=
  l.filterMap fun
    | .dispatch r => some r
    | .response _ => none
    | .report _ => none

/-- The records among `l` that went to the host, in order. -/
def responses (l : List Output) : List Word :=
  l.filterMap fun
    | .response w => some w
    | .dispatch _ => none
    | .report _ => none

/-- The reports among `l`, in order, without the index, which is relative to a chunk (R138). -/
def reportsByByte (l : List Output) : List (Byte × Byte) :=
  l.filterMap fun
    | .report r => some (r.code, r.byte)
    | .dispatch _ => none
    | .response _ => none

/-- `k` steps, stopping at the first fault or refusal. -/
def stepN : Nat → State → Host.Outcome State Fault Refusal
  | 0, s => .next s
  | k + 1, s =>
    match step s with
    | .next t => stepN k t
    | .fault f => .fault f
    | .refused r => .refused r

/-- Completion-pending (R33): a command is pending and its payload is already whole. -/
abbrev State.Pending (s : State) : Prop := s.curValid = true ∧ s.cfg.lenOf s.curOp = some s.fill.val

/-- The request of `FEED [d…]` (R71, R73): KEY and RSV 0, LEN the number of data bytes. -/
def feedRequest (d : List Byte) : Request :=
  { word := requestWord 5 0 0 (BitVec.ofNat 16 d.length), data := d }

/-- How many event dispatches `l` holds. -/
def eventsSent (l : List Output) : Nat :=
  ((dispatches l).filter (fun r => r.kind == .event)).length

/-- Two states that differ at most in accumulator bytes at and above `fill` (R25). -/
def State.SameButStale (s t : State) : Prop :=
  t = { s with acc := t.acc } ∧ ∀ k, k < s.fill.val → t.acc.toList[k]? = s.acc.toList[k]?

end Sys2Proof.Machine
end

