-- ==== Sys2Proof/Certificates/Slice0/Obligations.lean ====
section
/-! DEFINITION. The statements about the model, for the provers. -/

open Sys2Proof Sys2Proof.Machine

/-! ### Encoding -/

/-- R71 to R73, R75, R78: encoding loses nothing. Every operation, with every operand at every value its encoding
admits, is what its request or byte decodes to, in every decoder state in which its row applies. -/
def Obligations.DecodeInvertsEncode : Prop :=
  ∀ (c : Config) (d : DecState) (i : Instr), i.wf c = true → i.selectedIn c d = true →
    decode c d (encode i) = .ok i

/-- The other direction: what is decoded applies in that decoder state, is well formed but for a FEED's data count
(which R159 checks), and its own encoding decodes to it. -/
def Obligations.DecodedOperationIsCanonical : Prop :=
  ∀ (c : Config) (d : DecState) (e : Encoded) (i : Instr), decode c d e = .ok i →
    i.selectedIn c d = true ∧ decode c d (encode i) = .ok i ∧
    (i.wf c = true ∨ ∃ len data, i = .feed len data ∧ data.length ≠ len.toNat)

/-- The request words R90 writes out, each with the operation R72 gives it, and the opcode byte 0x67 (R22, R124,
R141). That HANDLER and CONTEXT are values clipped to the open widths is the model's choice (log entry 2). -/
def Obligations.SpecWordsDecode : Prop :=
  ∀ (c : Config) (h x : Wide) (d : List Byte),
    decodeRequest c ⟨0x00000000, h, x, d⟩ = .create ∧
    decodeRequest c ⟨0x00000001, h, x, d⟩ = .reset ∧
    decodeRequest c ⟨0x00000002, h, x, d⟩ = .destroy ∧
    decodeRequest c ⟨0x00000103, h, x, d⟩ = .regEvent 0x01 (lowBits c.handlerW h) (lowBits c.contextW x) ∧
    decodeRequest c ⟨0x00006704, h, x, d⟩ = .regCommand 0x67 (lowBits c.handlerW h) (lowBits c.contextW x) ∧
    decodeRequest c ⟨0x000C0005, h, x, d⟩ = .feed 12 d ∧
    decodeRequest c ⟨0x00000006, h, x, d⟩ = .statusRead 0x00 ∧
    decodeRequest c ⟨0x00000406, h, x, d⟩ = .statusRead 0x04 ∧
    decodeRequest c ⟨0x00000007, h, x, d⟩ = .reservedOp7 0 ∧
    decodeOpcode c 0x67 = .stream67Fixed11

/-- R76: KEY is ignored by CREATE, RESET, DESTROY and FEED, LEN by every operation but FEED: the answer of the
operation is the one it gives with 0 there. -/
def Obligations.UnusedFieldsAreIgnored : Prop :=
  ∀ (r : Request) (op : BitVec 3) (key : Byte) (len : Half) (s : State),
    ((op = 0 ∨ op = 1 ∨ op = 2 ∨ op = 5) →
      exec (decodeRequest s.cfg { r with word := requestWord op 0 key len }) s =
        exec (decodeRequest s.cfg { r with word := requestWord op 0 0 len }) s) ∧
    (op ≠ 5 →
      exec (decodeRequest s.cfg { r with word := requestWord op 0 key len }) s =
        exec (decodeRequest s.cfg { r with word := requestWord op 0 key 0 }) s)

/-- R79: the ROM entry encoding, both ways, exactly the entries it rejects, and that one such entry has the whole
configuration rejected. -/
def Obligations.RomEntryEncoding : Prop :=
  romEntry .invalid = 0x00 ∧ romEntry .dataBlock = 0x20 ∧ (∀ n : Fin 12, (romEntry (.fixed n)).toNat = 0x10 + n.val) ∧
  (∀ k : OpClass, romClass (romEntry k) = some k) ∧
  (∀ (e : Byte) (k : OpClass), romClass e = some k → romEntry k = e) ∧
  (∀ e : Byte, romClass e = none ↔
    e.extractLsb' 6 2 ≠ 0 ∨ e.extractLsb' 4 2 = 3 ∨ 12 ≤ (e.extractLsb' 0 4).toNat ∨
    (e.extractLsb' 0 4 ≠ 0 ∧ e.extractLsb' 4 2 ≠ 1)) ∧
  (∀ (rom : List Byte) (evtCap cmdCap handlerW contextW : Nat), (∃ e ∈ rom, romClass e = none) →
    Config.build rom evtCap cmdCap handlerW contextW = none)

/-- R7, R79 and spec decision D32: which configurations are accepted, and that the accepted one's ROM is the one
given. -/
def Obligations.ConfigurationAcceptance : Prop :=
  ∀ (rom : List Byte) (evtCap cmdCap handlerW contextW : Nat),
    ((∃ c, Config.build rom evtCap cmdCap handlerW contextW = some c) ↔
      rom.length = 256 ∧ (∀ e ∈ rom, romClass e ≠ none) ∧ rom[0x67]? = some 0x1B ∧ 1 ≤ evtCap ∧ 1 ≤ cmdCap ∧
      (1 ≤ handlerW ∧ handlerW ≤ 64) ∧ (1 ≤ contextW ∧ contextW ≤ 64)) ∧
    ∀ c, Config.build rom evtCap cmdCap handlerW contextW = some c →
      c.evtCap = evtCap ∧ c.cmdCap = cmdCap ∧ c.handlerW = handlerW ∧ c.contextW = contextW ∧
      ∀ b : Byte, (rom[b.toNat]?).bind romClass = some (c.schema b)

/-- R77: the FEED result words. A failure at index i ≤ 65534 is −(i+1), full success is L, SENTINEL is −2^31, and no
two of the three ranges, and none of them with ILLEGAL (R75), share a word. Reading a word by `toInt` takes `i32` to
be two's complement, an assumption (log entry 18, PRESUMED): R77 itself says that this reading "is [from general
knowledge, not in source]". -/
def Obligations.FeedResultWords : Prop :=
  (∀ i : Half, i.toNat ≤ 65534 → (failWord i).toInt = -((i.toNat : Int) + 1)) ∧
  (∀ l : Half, (l.setWidth 32 : Word).toInt = l.toNat) ∧
  respSentinel.toInt = -(2 ^ 31) ∧
  (∀ i l : Half, failWord i ≠ l.setWidth 32 ∧ failWord i ≠ respSentinel ∧ l.setWidth 32 ≠ respSentinel ∧
    failWord i ≠ respIllegal ∧ l.setWidth 32 ≠ respIllegal ∧ respSentinel ≠ respIllegal)

/-! ### One step -/

/-- A step runs the decoded operation: the request at the head of the host's requests when no FEED runs, the
handler agent's while a dispatch is out, and the stream byte being processed after its event dispatch. The request
is taken off its list; nothing else is done around the operation. That the inputs are lists in the state and that the
event dispatch is a step of its own are the model's choices (log entries 6, 7 and 16). -/
def Obligations.StepRunsTheDecodedOperation : Prop :=
  (∀ (s : State) (r : Request) (rest : List Request),
    s.wait = .none → s.busy = false → s.inbox = r :: rest →
      step s = exec (decodeRequest s.cfg r) { s with inbox := rest }) ∧
  (∀ (s : State) (r : Request) (rest : List AgentAct),
    s.wait ≠ .none → s.agent = .request r :: rest →
      step s = exec (decodeRequest s.cfg r) { s with agent := rest }) ∧
  (∀ (s : State) (b : Byte) (i : Instr),
    s.wait = .none → s.busy = true → s.phase = .action → s.chunk[s.feedIdx.toNat]? = some b →
      decodeStream s.cfg s.decState b = .ok i → step s = exec i s)

/-- R108, R188, R203: an idle block does nothing, and a block that waits for the handler agent waits. That an agent
with no input listed leaves the state as it is, is the model's choice (log entries 6 and 7). -/
def Obligations.NothingHappensWithoutInput : Prop :=
  (∀ s : State, s.wait = .none → s.busy = false → s.inbox = [] → step s = .next s) ∧
  (∀ s : State, s.wait ≠ .none → s.agent = [] → step s = .next s)

/-- R122 (with R104, R105): the first thing a byte step does, whatever the decoder state, is the event dispatch with
key 0x01 and an empty payload; with no entry for that key it goes on at once. That this is a step of its own is the
model's choice (log entry 16). -/
def Obligations.EventDispatchComesFirst : Prop :=
  ∀ s : State, s.wait = .none → s.busy = true → s.phase = .event →
    ((∀ e ∈ s.evtTab.take s.evtCount, e.key ≠ 0x01) → step s = .next { s with phase := .action }) ∧
    (∀ (j : Nat) (e : Entry), (s.evtTab.take s.evtCount)[j]? = some e → e.key = 0x01 →
      (∀ (i : Nat) (f : Entry), i < j → (s.evtTab.take s.evtCount)[i]? = some f → f.key ≠ 0x01) →
      step s = .next { s with
        wait := .event
        out := s.out ++ [.dispatch
          { kind := .event, key := 0x01, handler := e.handler, context := e.context, plen := 0, payload := [] }] })

/-- R103, R104, R106, R107: the first entry with the key is handed the request, its handler and context unchanged,
however many later entries share the key; nothing but `wait` and the sent record changes. -/
def Obligations.FirstMatchingEntryIsDispatched : Prop :=
  ∀ (k : Kind) (key : Byte) (p : List Byte) (onOk : State → State) (s : State) (j : Nat) (e : Entry),
    (s.seqOf k)[j]? = some e → e.key = key →
    (∀ (i : Nat) (f : Entry), i < j → (s.seqOf k)[i]? = some f → f.key ≠ key) →
    dispatch k key p onOk s = { s with
      wait := match k with
        | .event => .event
        | .command => .command
      out := s.out ++ [.dispatch
        { kind := k, key := key, handler := e.handler, context := e.context
          plen := BitVec.ofNat 32 p.length, payload := p }] }

/-- R105: with no entry for the key, nothing is sent and the dispatch is Ok at once. -/
def Obligations.NoMatchIsOk : Prop :=
  ∀ (k : Kind) (key : Byte) (p : List Byte) (onOk : State → State) (s : State),
    (∀ e ∈ s.seqOf k, e.key ≠ key) → dispatch k key p onOk s = onOk s

/-- The one-bit codes of the dispatch channels: `kind` 0 = Event, 1 = Command (R81), answer 0 = Ok, 1 = Fail (R82), and
each value of the answer bit is one answer. -/
def Obligations.DispatchChannelCodes : Prop :=
  Kind.bit .event = 0 ∧ Kind.bit .command = 1 ∧ Answer.bit .ok = 0 ∧ Answer.bit .fail = 1 ∧
  (∀ a : Answer, Answer.ofBit a.bit = a) ∧ ∀ b : BitVec 1, (Answer.ofBit b).bit = b

/-! ### The handler's answer -/

/-- R121, R122: after an Ok to the byte's event, the block goes on to the byte's own action. -/
def Obligations.EventOkGoesOnToTheByte : Prop :=
  ∀ (s : State) (rest : List AgentAct), s.wait = .event → s.agent = .answer .ok :: rest →
    step s = .next { s with agent := rest, wait := .none, phase := .action }

/-- R123, R125, R133, R178: a Fail to an event or to a command ends the FEED with −(i+1) for the byte's index i;
`busy` and `wait` are released, and every other field is kept. The word of −(i+1) is two's complement (log entry 18, PRESUMED). -/
def Obligations.HandlerFailureAborts : Prop :=
  ∀ (s : State) (rest : List AgentAct), s.wait ≠ .none → s.agent = .answer .fail :: rest →
    step s = .next { s with
      agent := rest
      wait := .none
      busy := false
      out := s.out ++ [.response (BitVec.ofInt 32 (-((s.feedIdx.toNat : Int) + 1)))] }

/-- R125, R132 (with R35, R136): an Ok to a command returns the decoder to Idle if a command was pending and leaves it
Idle if not, and the FEED goes on to the next byte or, after the last, ends with its full-success count. The field
`phase` (log entry 16), and `feed_len`, `feed_idx`, `chunk` and `phase` kept after the end of the FEED (log entry 13),
are the model's choices. -/
def Obligations.CommandOkReturnsToIdle : Prop :=
  ∀ (s : State) (rest : List AgentAct), s.wait = .command → s.agent = .answer .ok :: rest →
    (s.curValid = false → s.fill = 0 ∧ s.curOp = 0) →
    (s.feedIdx.toNat + 1 < s.feedLen.toNat →
      step s = .next { s with
        agent := rest, wait := .none, curValid := false, curOp := 0, fill := 0
        feedIdx := s.feedIdx + 1, phase := .event }) ∧
    (s.feedLen.toNat ≤ s.feedIdx.toNat + 1 →
      step s = .next { s with
        agent := rest, wait := .none, curValid := false, curOp := 0, fill := 0
        feedsDone := s.feedsDone + 1, busy := false
        out := s.out ++ [.response (s.feedLen.setWidth 32)] })

/-! ### The byte's own action

In each of these statements the field `phase` (log entry 16), and `feed_len`, `feed_idx`, `chunk` and `phase` kept
after the end of the FEED (log entry 13), are the model's choices. -/

/-- R125: a Fixed(0) opcode in Idle dispatches its command with an empty payload and writes no decoder state. With
a first matching entry the request is sent; with none the FEED goes on, or ends after the last byte. -/
def Obligations.FixedZeroDispatchesAtOnce : Prop :=
  ∀ (b : Byte) (s : State), s.curValid = false →
    (∀ (j : Nat) (e : Entry), s.cmdSeq[j]? = some e → e.key = b →
      (∀ (i : Nat) (f : Entry), i < j → s.cmdSeq[i]? = some f → f.key ≠ b) →
      exec (.streamFixed0 b) s = .next { s with
        wait := .command
        out := s.out ++ [.dispatch
          { kind := .command, key := b, handler := e.handler, context := e.context, plen := 0, payload := [] }] }) ∧
    ((∀ e ∈ s.cmdSeq, e.key ≠ b) →
      (s.feedIdx.toNat + 1 < s.feedLen.toNat →
        exec (.streamFixed0 b) s = .next { s with feedIdx := s.feedIdx + 1, phase := .event }) ∧
      (s.feedLen.toNat ≤ s.feedIdx.toNat + 1 →
        exec (.streamFixed0 b) s = .next { s with
          feedsDone := s.feedsDone + 1, busy := false
          out := s.out ++ [.response (s.feedLen.setWidth 32)] }))

/-- R126 and R127: an Invalid opcode is reported with code 0x01, a DataBlock opcode with code 0x02, each with its byte
and index; no decoder state is written, no command is dispatched, and the FEED goes on or ends. -/
def Obligations.UnknownAndDataBlockAreReportedAndSkipped : Prop :=
  ∀ (b : Byte) (s : State),
    (s.feedIdx.toNat + 1 < s.feedLen.toNat →
      exec (.streamInvalid b) s = .next { s with
        feedIdx := s.feedIdx + 1, phase := .event
        out := s.out ++ [.report { code := 0x01, byte := b, index := s.feedIdx }] } ∧
      exec (.streamDataBlock b) s = .next { s with
        feedIdx := s.feedIdx + 1, phase := .event
        out := s.out ++ [.report { code := 0x02, byte := b, index := s.feedIdx }] }) ∧
    (s.feedLen.toNat ≤ s.feedIdx.toNat + 1 →
      exec (.streamInvalid b) s = .next { s with
        feedsDone := s.feedsDone + 1, busy := false
        out := s.out ++ [.report { code := 0x01, byte := b, index := s.feedIdx },
          .response (s.feedLen.setWidth 32)] } ∧
      exec (.streamDataBlock b) s = .next { s with
        feedsDone := s.feedsDone + 1, busy := false
        out := s.out ++ [.report { code := 0x02, byte := b, index := s.feedIdx },
          .response (s.feedLen.setWidth 32)] })

/-- R129 and, for 0x67, R141: an opcode with a payload enters Accumulating(b, 0); `acc` is not written and nothing is
sent, and the FEED goes on, or ends with the command pending. -/
def Obligations.OpcodeStartsAccumulating : Prop :=
  ∀ (b : Byte) (s : State) (i : Instr), (i = .streamFixedN b ∨ (i = .stream67Fixed11 ∧ b = 0x67)) →
    (s.feedIdx.toNat + 1 < s.feedLen.toNat →
      exec i s = .next { s with
        curValid := true, curOp := b, fill := 0, feedIdx := s.feedIdx + 1, phase := .event }) ∧
    (s.feedLen.toNat ≤ s.feedIdx.toNat + 1 →
      exec i s = .next { s with
        curValid := true, curOp := b, fill := 0, feedsDone := s.feedsDone + 1, busy := false
        out := s.out ++ [.response (s.feedLen.setWidth 32)] })

/-- R130, R131, R135: a payload byte, whatever its value, is stored at `acc[fill]` and `fill` grows by one. Short of
the declared length nothing else happens but going on or ending. At the declared length n the command is dispatched
with exactly its n bytes in order of arrival to the first entry with its opcode; with no entry it succeeds, and the
decoder is Idle. -/
def Obligations.PayloadByteIsAppended : Prop :=
  ∀ (b : Byte) (s : State) (n : Nat), s.curValid = true → s.cfg.lenOf s.curOp = some n → s.fill.val < n →
    (s.fill.val + 1 < n →
      (s.feedIdx.toNat + 1 < s.feedLen.toNat →
        exec (.streamPayloadByte b) s = .next { s with
          acc := s.acc.setIfInBounds s.fill.val b, fill := s.fill + 1, feedIdx := s.feedIdx + 1, phase := .event }) ∧
      (s.feedLen.toNat ≤ s.feedIdx.toNat + 1 →
        exec (.streamPayloadByte b) s = .next { s with
          acc := s.acc.setIfInBounds s.fill.val b, fill := s.fill + 1
          feedsDone := s.feedsDone + 1, busy := false
          out := s.out ++ [.response (s.feedLen.setWidth 32)] })) ∧
    (s.fill.val + 1 = n →
      (∀ (j : Nat) (e : Entry), s.cmdSeq[j]? = some e → e.key = s.curOp →
        (∀ (i : Nat) (f : Entry), i < j → s.cmdSeq[i]? = some f → f.key ≠ s.curOp) →
        exec (.streamPayloadByte b) s = .next { s with
          acc := s.acc.setIfInBounds s.fill.val b, fill := s.fill + 1, wait := .command
          out := s.out ++ [.dispatch
            { kind := .command, key := s.curOp, handler := e.handler, context := e.context
              plen := BitVec.ofNat 32 n, payload := s.acc.toList.take s.fill.val ++ [b] }] }) ∧
      ((∀ e ∈ s.cmdSeq, e.key ≠ s.curOp) →
        (s.feedIdx.toNat + 1 < s.feedLen.toNat →
          exec (.streamPayloadByte b) s = .next { s with
            acc := s.acc.setIfInBounds s.fill.val b, curValid := false, curOp := 0, fill := 0
            feedIdx := s.feedIdx + 1, phase := .event }) ∧
        (s.feedLen.toNat ≤ s.feedIdx.toNat + 1 →
          exec (.streamPayloadByte b) s = .next { s with
            acc := s.acc.setIfInBounds s.fill.val b, curValid := false, curOp := 0, fill := 0
            feedsDone := s.feedsDone + 1, busy := false
            out := s.out ++ [.response (s.feedLen.setWidth 32)] })))

/-- R134: a byte in completion-pending ends the FEED with SENTINEL and writes nothing else: it is not appended, no
command is dispatched and the feed counter is kept. -/
def Obligations.PendingByteEndsWithSentinel : Prop :=
  ∀ (b : Byte) (s : State), s.wait = .none →
    exec (.streamPendingByte b) s = .next { s with busy := false, out := s.out ++ [.response 0x80000000] }

/-- R128, R130, R134: in Accumulating the byte is never classified: which operation it is depends on `fill` and
len(cur_op) only, in every reachable state. -/
def Obligations.PayloadBytesAreNotClassified : Prop :=
  ∀ (s : State) (b : Byte), s.DecoderOk → s.curValid = true →
    decodeStream s.cfg s.decState b =
      .ok (if s.cfg.lenOf s.curOp = some s.fill.val then .streamPendingByte b else .streamPayloadByte b)

/-- R124: in Idle the byte's class picks exactly one operation. -/
def Obligations.IdleByteIsClassified : Prop :=
  ∀ (s : State) (b : Byte), s.curValid = false →
    (s.cfg.schema b = .invalid → decodeStream s.cfg s.decState b = .ok (.streamInvalid b)) ∧
    (s.cfg.schema b = .dataBlock → decodeStream s.cfg s.decState b = .ok (.streamDataBlock b)) ∧
    (s.cfg.schema b = .fixed 0 → decodeStream s.cfg s.decState b = .ok (.streamFixed0 b)) ∧
    (∀ n : Fin 12, s.cfg.schema b = .fixed n → n ≠ 0 →
      decodeStream s.cfg s.decState b = .ok (if b = 0x67 then .stream67Fixed11 else .streamFixedN b))

/-! ### Host operations -/

/-- R150, R156, R20: CREATE, in Uninit and in Live: exactly these fields are written; `feed_len`, `feed_idx` and the
entries of both tables, of which there are as many as their capacity, are free values, whatever they are (log entries
13 and 14). `draws` is the model's own counter. -/
def Obligations.CreateInitializes : Prop :=
  ∀ s : State, s.busy = false →
    ∃ (l i : Half) (et ct : List Entry) (d : Nat),
      exec .create s = .next { s with
        life := .live, curValid := false, curOp := 0, fill := 0, acc := Vector.replicate 11 0, feedsDone := 0
        evtCount := 0, evtTab := et, cmdCount := 0, cmdTab := ct, feedLen := l, feedIdx := i, draws := d
        out := s.out ++ [.response 0x00000000] } ∧
      et.length = s.cfg.evtCap ∧ ct.length = s.cfg.cmdCap

/-- R151, R193, R20: RESET clears the decoder state and the feed counter and keeps everything else, the registry
included, but `feed_len` and `feed_idx`, which are free values, whatever they are (log entry 13). `draws` is the
model's own counter. -/
def Obligations.ResetClearsTheDecoder : Prop :=
  ∀ s : State, s.busy = false → s.life = .live →
    ∃ (l i : Half) (d : Nat), exec .reset s = .next { s with
      curValid := false, curOp := 0, fill := 0, feedsDone := 0, feedLen := l, feedIdx := i, draws := d
      out := s.out ++ [.response 0x00000000] }

/-- R153, R20: DESTROY empties both sequences and leaves the instance Uninit. The decoder fields, the table entries
(as many as their capacity), `feed_len` and `feed_idx` are free values, whatever they are (log entries 4, 13 and 14);
every other field but the sent response is kept. `draws` is the model's own counter. -/
def Obligations.DestroyTearsDown : Prop :=
  ∀ s : State, s.busy = false → s.life = .live →
    ∃ (v : Bool) (op : Byte) (f : FillCount) (a : Vector Byte 11) (n : Word) (l i : Half) (et ct : List Entry) (d : Nat),
      exec .destroy s = .next { s with
        life := .uninit, evtCount := 0, cmdCount := 0
        curValid := v, curOp := op, fill := f, acc := a, feedsDone := n, feedLen := l, feedIdx := i
        evtTab := et, cmdTab := ct, draws := d, out := s.out ++ [.response 0x00000000] } ∧
      et.length = s.cfg.evtCap ∧ ct.length = s.cfg.cmdCap

/-- R100 to R103, R53: a registration writes one entry at the end of its own sequence, at index `count` of its table,
changing no other entry and nothing else, whatever the key and whether or not it is already there; at capacity it changes nothing and answers FULL. -/
def Obligations.RegistrationAppendsOrIsFull : Prop :=
  ∀ (s : State) (key : Byte) (h x : Wide), s.busy = false → s.life = .live →
    (s.evtCount ≠ s.cfg.evtCap →
      exec (.regEvent key h x) s = .next { s with
        evtTab := s.evtTab.take s.evtCount ++
          { key := key, handler := h, context := x } :: s.evtTab.drop (s.evtCount + 1)
        evtCount := s.evtCount + 1, out := s.out ++ [.response 0x00000000] }) ∧
    (s.evtCount = s.cfg.evtCap →
      exec (.regEvent key h x) s = .next { s with out := s.out ++ [.response 0x00000001] }) ∧
    (s.cmdCount ≠ s.cfg.cmdCap →
      exec (.regCommand key h x) s = .next { s with
        cmdTab := s.cmdTab.take s.cmdCount ++
          { key := key, handler := h, context := x } :: s.cmdTab.drop (s.cmdCount + 1)
        cmdCount := s.cmdCount + 1, out := s.out ++ [.response 0x00000000] }) ∧
    (s.cmdCount = s.cfg.cmdCap →
      exec (.regCommand key h x) s = .next { s with out := s.out ++ [.response 0x00000001] })

/-- R120, R121, R54: an accepted FEED with bytes captures its chunk and stands before the event of byte 0; nothing of
the decoder state, the registry or the feed counter is written yet. The field `phase` is the model's own (log
entry 16). -/
def Obligations.FeedBegins : Prop :=
  ∀ (s : State) (len : Half) (data : List Byte),
    s.busy = false → s.life = .live → data.length = len.toNat → len ≠ 0 →
    exec (.feed len data) s = .next { s with
      busy := true, feedLen := len, feedIdx := 0, chunk := data, phase := .event }

/-- R140 (with R30, R121, R136): the empty chunk. That `feed_len` and the chunk stay as this FEED wrote them, and
`feed_idx` and `phase` as they were, once it has ended, is the model's choice (log entry 13): R30 leaves the first
and third unspecified there. -/
def Obligations.EmptyChunkSucceeds : Prop :=
  ∀ s : State, s.busy = false → s.life = .live →
    exec (.feed 0 []) s = .next { s with
      feedLen := 0, chunk := [], feedsDone := s.feedsDone + 1, out := s.out ++ [.response 0x00000000] }

/-- R154 with R84 to R87, a live instance: STATUS_READ writes nothing and answers the selected status word, whose
fields are these. It is accepted while a FEED runs. What words 2 and 3 hold for a count of 2^32 or more, which R85 does
not state, is a free value (log entry 23), of which nothing is said here. -/
def Obligations.StatusReadShowsTheState : Prop :=
  ∀ (s : State) (sel : Byte), s.life = .live →
    ∃ w : Word, exec (.statusRead sel) s = .next { s with out := s.out ++ [.response w] } ∧
      (sel = 0x00 →
        w.extractLsb' 0 1 = 1 ∧ w.extractLsb' 1 1 = BitVec.ofBool s.curValid ∧
        w.extractLsb' 2 1 = BitVec.ofBool s.busy ∧
        (w.extractLsb' 3 2).toNat = (match s.wait with
          | .none => 0
          | .event => 1
          | .command => 2) ∧
        w.extractLsb' 5 3 = 0 ∧ w.extractLsb' 8 8 = (if s.curValid then s.curOp else 0) ∧
        (w.extractLsb' 16 8).toNat = s.fill.val ∧ w.extractLsb' 24 8 = 0) ∧
      (sel = 0x01 → w = s.feedsDone) ∧
      (sel = 0x02 → s.evtCount < 2 ^ 32 → w.toNat = s.evtCount) ∧
      (sel = 0x03 → s.cmdCount < 2 ^ 32 → w.toNat = s.cmdCount) ∧
      (∀ k m : Nat, k ≤ 3 → m ≤ 3 → sel.toNat = 4 + k →
        w.extractLsb' (8 * m) 8 = (if 4 * k + m < s.fill.val then s.acc.toList.getD (4 * k + m) 0 else 0)) ∧
      (sel = 0x08 → s.busy = true → w.extractLsb' 16 16 = s.feedLen ∧ w.extractLsb' 0 16 = s.feedIdx) ∧
      (sel = 0x08 → s.busy = false → w = 0) ∧
      (9 ≤ sel.toNat → w = 0)

/-- R87, R159: STATUS_READ is accepted in Uninit too; bit 0 of word 0 reads 0. Every other bit is a free value: the
statement holds whatever it is. `draws` is the model's own counter (log entry 5). -/
def Obligations.StatusReadInUninit : Prop :=
  ∀ (s : State) (sel : Byte), s.life = .uninit →
    ∃ w : Word, exec (.statusRead sel) s =
        .next { s with draws := s.draws + 1, out := s.out ++ [.response w] } ∧
      (sel = 0x00 → w.getLsbD 0 = false)

/-- R75, R155: an illegal request changes no state and answers ILLEGAL, in Uninit too, when no FEED runs. -/
def Obligations.IllegalRequestsAnswerIllegal : Prop :=
  ∀ (s : State) (op : BitVec 3) (rsv : BitVec 5), s.busy = false →
    exec (.reservedOp7 rsv) s = .next { s with out := s.out ++ [.response 0x80000001] } ∧
    exec (.illegalRsv op rsv) s = .next { s with out := s.out ++ [.response 0x80000001] }

/-- R159 whole: the checks every request passes, in their order, and that a request that passes them runs: it answers
a next state. -/
def Obligations.RequestChecksInOrder : Prop :=
  ∀ (s : State) (r : Request),
    let illegal := opField r.word = 7 ∨ rsvField r.word ≠ 0
    let reentry := s.busy = true ∧ opField r.word ≠ 6
    let dead := s.life = .uninit ∧ opField r.word ≠ 0 ∧ opField r.word ≠ 6
    let mismatch := opField r.word = 5 ∧ r.data.length ≠ (lenField r.word).toNat
    (reentry → exec (decodeRequest s.cfg r) s = .refused .reentry) ∧
    (¬ reentry → illegal →
      exec (decodeRequest s.cfg r) s = .next { s with out := s.out ++ [.response 0x80000001] }) ∧
    (¬ reentry → ¬ illegal → dead → exec (decodeRequest s.cfg r) s = .refused .uninit) ∧
    (¬ reentry → ¬ illegal → ¬ dead → mismatch → exec (decodeRequest s.cfg r) s = .refused .countMismatch) ∧
    (¬ reentry → ¬ illegal → ¬ dead → ¬ mismatch → ∃ t, exec (decodeRequest s.cfg r) s = .next t)

/-! ### Rules of the whole machine -/

/-- The power-on state meets the invariant (R190), and its table entries fit the configured widths. The values R190
leaves unspecified are the model's choice (log entry 3). -/
def Obligations.PowerOnMeetsTheInvariant : Prop := State.reset.Inv ∧ State.reset.EntriesFit

/-- R31 (with R23, R30, R35): every step keeps the invariant, from every state that meets it. -/
def Obligations.EveryStepKeepsTheInvariant : Prop :=
  ∀ s t : State, s.Inv → step s = .next t → t.Inv

/-- R20, R27, R73, R81: in every step, the handler and context of every table entry stay within P_HANDLER_W and
P_CONTEXT_W bits, and so do those of every dispatch record the step sends. -/
def Obligations.EntriesKeepTheirWidths : Prop :=
  ∀ s t : State, s.EntriesFit → step s = .next t →
    t.EntriesFit ∧
    ∃ new, t.out = s.out ++ new ∧
      ∀ r ∈ dispatches new, r.handler.toNat < 2 ^ s.cfg.handlerW ∧ r.context.toNat < 2 ^ s.cfg.contextW

/-- R52 ("do not silently overflow") and R22: no step from a state that meets the invariant raises a fault: the
accumulator is never written outside, len is never asked of an opcode that has none, and no byte is read past the
chunk. -/
def Obligations.NoStepFaults : Prop := ∀ s : State, s.Inv → NoFault (step s)

/-- R21: no operation writes the configuration, the ROM with it. -/
def Obligations.ConfigurationNeverChanges : Prop :=
  ∀ s t : State, step s = .next t → t.cfg = s.cfg

/-- R28: the only writes to a registry are the appends of the two registrations and the emptying of CREATE and
DESTROY; an answer of the handler agent and an event dispatch write neither sequence. -/
def Obligations.RegistryIsAppendOnly : Prop :=
  (∀ (i : Instr) (s t : State), exec i s = .next t →
    (t.evtSeq = s.evtSeq ∨ (∃ k h x, i = .regEvent k h x ∧ t.evtSeq = s.evtSeq ++ [⟨k, h, x⟩]) ∨
      ((i = .create ∨ i = .destroy) ∧ t.evtSeq = [])) ∧
    (t.cmdSeq = s.cmdSeq ∨ (∃ k h x, i = .regCommand k h x ∧ t.cmdSeq = s.cmdSeq ++ [⟨k, h, x⟩]) ∨
      ((i = .create ∨ i = .destroy) ∧ t.cmdSeq = []))) ∧
  (∀ s t : State, step s = .next t →
    (t.evtSeq = s.evtSeq ∧ t.cmdSeq = s.cmdSeq) ∨
    ∃ (i : Instr) (u : State), exec i u = .next t ∧ u.evtSeq = s.evtSeq ∧ u.cmdSeq = s.cmdSeq)

/-- R36: `life` is written by CREATE and DESTROY only. -/
def Obligations.OnlyCreateAndDestroyWriteLife : Prop :=
  ∀ (i : Instr) (s t : State), exec i s = .next t →
    t.life = s.life ∨ (i = .create ∧ t.life = .live) ∨ (i = .destroy ∧ t.life = .uninit)

/-- R107, R110, R111, R122, R131: every record a step sends to the handler agent is one it may send (an event with key
0x01 and no payload, or a command whose opcode's class is Fixed(n) with n payload bytes), and a step sends at most one
(R106). -/
def Obligations.SentRecordsAreWellFormed : Prop :=
  ∀ s t : State, s.Inv → step s = .next t →
    ∃ new, t.out = s.out ++ new ∧ (dispatches new).length ≤ 1 ∧
      ∀ r ∈ dispatches new, r.Ok s.cfg

/-- R26, R137, R178: a step that ends a FEED sends one response, last. It is i32(L), and the feed counter counts the
FEED; or −(i+1) for the byte's index i, or SENTINEL, and the counter is kept. SENTINEL comes from completion-pending
only, and the decoder state is then kept (R134). The word of −(i+1) is two's complement (log entry 18, PRESUMED). -/
def Obligations.FeedEndsWithOneResult : Prop :=
  ∀ s t : State, s.Inv → s.busy = true → step s = .next t → t.busy = false →
    ∃ new w, t.out = s.out ++ new ++ [.response w] ∧ responses new = [] ∧
      ((w = s.feedLen.setWidth 32 ∧ t.feedsDone = s.feedsDone + 1) ∨
       (w = BitVec.ofInt 32 (-((s.feedIdx.toNat : Int) + 1)) ∧ t.feedsDone = s.feedsDone) ∨
       (w = 0x80000000 ∧ t.feedsDone = s.feedsDone ∧ s.Pending ∧ t.Pending ∧ t.curOp = s.curOp))

/-- R54, R58, R64: while a FEED runs and goes on, no step changes its chunk, its length, the registry or the host's
requests, and the life of the instance stays Live. -/
def Obligations.RunningFeedIsUndisturbed : Prop :=
  ∀ s t : State, s.Inv → s.busy = true → step s = .next t →
    t.chunk = s.chunk ∧ t.feedLen = s.feedLen ∧ t.evtSeq = s.evtSeq ∧ t.cmdSeq = s.cmdSeq ∧ t.inbox = s.inbox ∧
    t.life = .live ∧ (t.busy = true → t.feedsDone = s.feedsDone)

/-- The frame of the seven stream operations (R34, R121, R178): they write the decoder state, the feed counter, the
fields of the running FEED and what is sent, and nothing else; only a payload byte writes `acc`, at index `fill`. -/
def Obligations.StreamOperationsFrame : Prop :=
  ∀ (i : Instr) (b : Byte) (s t : State),
    (i = .stream67Fixed11 ∨ i = .streamFixed0 b ∨ i = .streamFixedN b ∨ i = .streamInvalid b ∨
      i = .streamDataBlock b ∨ i = .streamPayloadByte b ∨ i = .streamPendingByte b) →
    exec i s = .next t →
      t.life = s.life ∧ t.evtCount = s.evtCount ∧ t.evtTab = s.evtTab ∧ t.cmdCount = s.cmdCount ∧
      t.cmdTab = s.cmdTab ∧ t.feedLen = s.feedLen ∧ t.chunk = s.chunk ∧ t.inbox = s.inbox ∧ t.agent = s.agent ∧
      t.draws = s.draws ∧ t.cfg = s.cfg ∧
      (∀ k, (i ≠ .streamPayloadByte b ∨ k ≠ s.fill.val) → t.acc.toList[k]? = s.acc.toList[k]?)

/-- R25 and spec decision D28: accumulator bytes at and above `fill` are unobservable. Two states that differ in such
bytes only answer a step alike: the same outcome, and next states that send the same records and differ in such bytes
only. -/
def Obligations.StaleBytesAreUnobservable : Prop :=
  ∀ s s' t : State, s.SameButStale s' → step s = .next t →
    ∃ t', step s' = .next t' ∧ t.SameButStale t'

/-- R190, R150, R20: CREATE answers the same next state whatever `cur_valid`, `cur_op`, `fill`, `acc`, `feeds_done`,
both sequences with their tables, `feed_len` and `feed_idx` held, so the power-on values the model names for these
(log entry 3) cannot be told from any others. It says nothing of `chunk` and `phase`, which entry 3 names too. -/
def Obligations.CreateOverwritesTheFieldsOfR20 : Prop :=
  ∀ (s : State) (v : Bool) (op : Byte) (f : FillCount) (a : Vector Byte 11) (n : Word) (ec cc : Nat)
    (et ct : List Entry) (l i : Half),
    s.busy = false →
    ∃ t, exec .create s = .next t ∧
      exec .create { s with
        curValid := v, curOp := op, fill := f, acc := a, feedsDone := n
        evtCount := ec, evtTab := et, cmdCount := cc, cmdTab := ct, feedLen := l, feedIdx := i } = .next t

/-! ### Whole FEEDs -/

/-- R137, R139, R203: a FEED whose every dispatch is answered ends, for every chunk and every sequence of answers. It
sends one response. On full success it is L and there was one event dispatch for each of the L bytes; on an abort at
byte i there were i+1. Each is sent only if an event entry has key 0x01. The answers as a list are the model's choice
(log entry 6), and the word of −(i+1) is two's complement (log entry 18, PRESUMED). -/
def Obligations.AnsweredFeedEnds : Prop :=
  ∀ (s : State) (d : List Byte) (as : List Answer),
    s.Inv → s.life = .live → s.busy = false → d.length < 65536 → 2 * d.length ≤ as.length →
    ∃ n t new w,
      stepN n { s with inbox := [feedRequest d], agent := as.map .answer } = .next t ∧
      t.busy = false ∧ t.inbox = [] ∧ t.out = s.out ++ new ++ [.response w] ∧ responses new = [] ∧
      ((w = BitVec.ofNat 32 d.length ∧ t.feedsDone = s.feedsDone + 1 ∧
          eventsSent new = (if (s.lookup .event 0x01).isSome then d.length else 0)) ∨
       (∃ i, i < d.length ∧ (w = BitVec.ofInt 32 (-((i : Int) + 1)) ∨ w = 0x80000000) ∧
          t.feedsDone = s.feedsDone ∧
          eventsSent new = (if (s.lookup .event 0x01).isSome then i + 1 else 0)))

/-- R105: a FEED on an instance with no registered handlers never fails. It needs no answer, sends no dispatch record
and responds L, from every reachable state but completion-pending (whose next byte ends with SENTINEL, R134). -/
def Obligations.FeedWithoutHandlersSucceeds : Prop :=
  ∀ (s : State) (d : List Byte),
    s.Inv → s.life = .live → s.busy = false → s.evtCount = 0 → s.cmdCount = 0 → ¬ s.Pending → d.length < 65536 →
    ∃ n t new,
      stepN n { s with inbox := [feedRequest d] } = .next t ∧ t.busy = false ∧ t.inbox = [] ∧
      t.out = s.out ++ new ++ [.response (BitVec.ofNat 32 d.length)] ∧ responses new = [] ∧ dispatches new = [] ∧
      t.feedsDone = s.feedsDone + 1

/-- R129 to R132, R141: a whole command, opcode and n payload bytes, fed to an idle decoder with no event handler, is
handed to the first entry of its opcode with exactly its n bytes in order, and after an Ok the decoder is Idle and the
FEED responds n + 1. -/
def Obligations.WholeCommandIsDelivered : Prop :=
  ∀ (s : State) (op : Byte) (p : List Byte) (e : Entry),
    s.Inv → s.life = .live → s.busy = false → s.curValid = false → 1 ≤ p.length →
    s.cfg.lenOf op = some p.length → s.lookup .event 0x01 = none → s.lookup .command op = some e →
    ∃ n t,
      stepN n { s with inbox := [feedRequest (op :: p)], agent := [.answer .ok] } = .next t ∧
      t.busy = false ∧ t.curValid = false ∧ t.fill = 0 ∧ t.feedsDone = s.feedsDone + 1 ∧
      t.out = s.out ++
        [.dispatch { kind := .command, key := op, handler := e.handler, context := e.context
                     plen := BitVec.ofNat 32 p.length, payload := p },
         .response (BitVec.ofNat 32 (p.length + 1))]

/-- R138, chunking invariance: a byte sequence fed in any two ways of cutting it into chunks, every handler answering
Ok and no other operation in between, gives the same dispatch records in the same order, the same reports but for
their chunk-relative index, and the same decoder state; each FEED responds its chunk's length, and `feeds_done` counts
the chunks. From completion-pending, which R138 does not except, every FEED with a byte ends at once (R134), so that
state is left out. -/
def Obligations.ChunkingInvariance : Prop :=
  ∀ (s : State) (cs ds : List (List Byte)) (k : Nat),
    s.Inv → s.life = .live → s.busy = false → ¬ s.Pending → cs.flatten = ds.flatten →
    (∀ c ∈ cs, c.length < 65536) → (∀ d ∈ ds, d.length < 65536) → 2 * cs.flatten.length ≤ k →
    ∃ n m t u,
      stepN n { s with inbox := cs.map feedRequest, agent := List.replicate k (.answer .ok) } = .next t ∧
      stepN m { s with inbox := ds.map feedRequest, agent := List.replicate k (.answer .ok) } = .next u ∧
      t.busy = false ∧ u.busy = false ∧ t.inbox = [] ∧ u.inbox = [] ∧
      dispatches t.out = dispatches u.out ∧ reportsByByte t.out = reportsByByte u.out ∧
      t.curValid = u.curValid ∧ t.curOp = u.curOp ∧ t.fill = u.fill ∧ t.payload = u.payload ∧
      responses t.out = responses s.out ++ cs.map (fun c => BitVec.ofNat 32 c.length) ∧
      responses u.out = responses s.out ++ ds.map (fun d => BitVec.ofNat 32 d.length) ∧
      t.feedsDone = s.feedsDone + BitVec.ofNat 32 cs.length ∧
      u.feedsDone = s.feedsDone + BitVec.ofNat 32 ds.length
end

