-- ==== Sys2Proof/Laws/Rom.lean ====
section
/-! SUPPORT. The command-length ROM (R8, R21, R22) and the wires of a sideband value (R73). -/

namespace Sys2Proof

@[simp] theorem schema_67 (c : Config) : c.schema 103#8 = .fixed 11 := by
  simp [Config.schema]

@[simp] theorem lenOf_67 (c : Config) : c.lenOf 103#8 = some 11 := by
  simp [Config.lenOf]

theorem lenOf_eq_some {c : Config} {op : Byte} {n : Nat} (h : c.lenOf op = some n) :
    n ≤ 11 ∧ ∃ k : Fin 12, c.schema op = .fixed k ∧ k.val = n := by
  unfold Config.lenOf at h
  split at h
  · rename_i k hk
    cases h
    exact ⟨by omega, k, hk, rfl⟩
  · cases h
  · cases h

/-- A declared length fits the accumulator (R7). -/
theorem lenOf_le_accCap {c : Config} {op : Byte} {n : Nat} (h : c.lenOf op = some n) : n ≤ accCap :=
  (lenOf_eq_some h).1

theorem lowBits_of_lt {w : Nat} {v : Wide} (h : v.toNat < 2 ^ w) : lowBits w v = v := by
  unfold lowBits
  rw [Nat.mod_eq_of_lt h]
  simp

theorem lowBits_lt (w : Nat) (v : Wide) : (lowBits w v).toNat < 2 ^ w := by
  unfold lowBits
  rw [BitVec.toNat_ofNat]
  exact lt_of_le_of_lt (Nat.mod_le _ _) (Nat.mod_lt _ (by positivity))

end Sys2Proof
end

