-- ==== Sys2Proof/Laws/Decode.lean ====
section
/-! SUPPORT. The fields of a request word (R71), read back from a word made of them. -/

namespace Sys2Proof

/-- The bits of a request word, by field. -/
theorem requestWord_getLsbD (op : BitVec 3) (rsv : BitVec 5) (key : Byte) (len : Half) (i : Nat) :
    (requestWord op rsv key len).getLsbD i =
      if i < 3 then op.getLsbD i
      else if i - 3 < 5 then rsv.getLsbD (i - 3)
      else if i - 3 - 5 < 8 then key.getLsbD (i - 3 - 5)
      else len.getLsbD (i - 3 - 5 - 8) := by
  change BitVec.getLsbD (w := 16 + 8 + 5 + 3) (len ++ key ++ rsv ++ op) i = _
  simp only [BitVec.getLsbD_append]

@[simp] theorem opField_requestWord (op : BitVec 3) (rsv : BitVec 5) (key : Byte) (len : Half) :
    opField (requestWord op rsv key len) = op := by
  apply BitVec.eq_of_getLsbD_eq
  intro i hi
  simp [opField, requestWord_getLsbD, hi]

@[simp] theorem rsvField_requestWord (op : BitVec 3) (rsv : BitVec 5) (key : Byte) (len : Half) :
    rsvField (requestWord op rsv key len) = rsv := by
  apply BitVec.eq_of_getLsbD_eq
  intro i hi
  simp [rsvField, requestWord_getLsbD, hi]

@[simp] theorem keyField_requestWord (op : BitVec 3) (rsv : BitVec 5) (key : Byte) (len : Half) :
    keyField (requestWord op rsv key len) = key := by
  apply BitVec.eq_of_getLsbD_eq
  intro i hi
  have h1 : ¬ 8 + i < 3 := by omega
  have h2 : ¬ 8 + i - 3 < 5 := by omega
  have h3 : 8 + i - 3 - 5 = i := by omega
  simp only [keyField, BitVec.getLsbD_extractLsb', requestWord_getLsbD, hi, h1, h2, h3, if_true, if_false,
    decide_true, Bool.true_and]

@[simp] theorem lenField_requestWord (op : BitVec 3) (rsv : BitVec 5) (key : Byte) (len : Half) :
    lenField (requestWord op rsv key len) = len := by
  apply BitVec.eq_of_getLsbD_eq
  intro i hi
  have h1 : ¬ 16 + i < 3 := by omega
  have h2 : ¬ 16 + i - 3 < 5 := by omega
  have h3 : ¬ 16 + i - 3 - 5 < 8 := by omega
  have h4 : 16 + i - 3 - 5 - 8 = i := by omega
  simp only [lenField, BitVec.getLsbD_extractLsb', requestWord_getLsbD, hi, h1, h2, h3, h4, if_false,
    decide_true, Bool.true_and]

/-- Every request word is made of its four fields. -/
theorem requestWord_fields (w : Word) : requestWord (opField w) (rsvField w) (keyField w) (lenField w) = w := by
  apply BitVec.eq_of_getLsbD_eq
  intro i hi
  simp only [requestWord_getLsbD, opField, rsvField, keyField, lenField, BitVec.getLsbD_extractLsb']
  split
  · simp_all
  · split
    · have : 3 + (i - 3) = i := by omega
      simp_all
    · split
      · have : 8 + (i - 3 - 5) = i := by omega
        simp_all
      · have h1 : 16 + (i - 3 - 5 - 8) = i := by omega
        have h2 : i - 3 - 5 - 8 < 16 := by omega
        simp [h1, h2]

end Sys2Proof
end

