-- ==== Sys2Proof/Laws/Flags.lean ====
section
/-! SUPPORT. The bits of the status words, by field (R84, R86, R87). -/

namespace Sys2Proof.Machine

/-- Status word 0 by field (R84). -/
theorem statusMain_getLsbD (s : State) (i : Nat) :
    (statusMain s).getLsbD i =
      if i < 1 then s.life.bit.getLsbD i
      else if i - 1 < 1 then (BitVec.ofBool s.curValid).getLsbD (i - 1)
      else if i - 1 - 1 < 1 then (BitVec.ofBool s.busy).getLsbD (i - 1 - 1)
      else if i - 1 - 1 - 1 < 2 then s.wait.bits.getLsbD (i - 1 - 1 - 1)
      else if i - 1 - 1 - 1 - 2 < 3 then (0 : BitVec 3).getLsbD (i - 1 - 1 - 1 - 2)
      else if i - 1 - 1 - 1 - 2 - 3 < 8 then
        (if s.curValid then s.curOp else 0).getLsbD (i - 1 - 1 - 1 - 2 - 3)
      else if i - 1 - 1 - 1 - 2 - 3 - 8 < 8 then
        (BitVec.ofNat 8 s.fill.val).getLsbD (i - 1 - 1 - 1 - 2 - 3 - 8)
      else (0 : BitVec 8).getLsbD (i - 1 - 1 - 1 - 2 - 3 - 8 - 8) := by
  change BitVec.getLsbD (w := 8 + 8 + 8 + 3 + 2 + 1 + 1 + 1)
    ((0 : BitVec 8) ++ BitVec.ofNat 8 s.fill.val ++ (if s.curValid then s.curOp else 0) ++ (0 : BitVec 3) ++
      s.wait.bits ++ BitVec.ofBool s.busy ++ BitVec.ofBool s.curValid ++ s.life.bit) i = _
  simp only [BitVec.getLsbD_append]

/-- Status words 2 and 3 where R85 states them. -/
theorem statusCount_of_lt {sel : Byte} {n : Nat} (h : n < 2 ^ 32) : statusCount sel n = BitVec.ofNat 32 n := if_pos h

/-- Status words 4 to 7 by byte (R86). -/
theorem statusAcc_getLsbD (s : State) (k i : Nat) :
    (statusAcc s k).getLsbD i =
      if i < 8 then (shownByte s (4 * k)).getLsbD i
      else if i - 8 < 8 then (shownByte s (4 * k + 1)).getLsbD (i - 8)
      else if i - 8 - 8 < 8 then (shownByte s (4 * k + 2)).getLsbD (i - 8 - 8)
      else (shownByte s (4 * k + 3)).getLsbD (i - 8 - 8 - 8) := by
  change BitVec.getLsbD (w := 8 + 8 + 8 + 8)
    (shownByte s (4 * k + 3) ++ shownByte s (4 * k + 2) ++ shownByte s (4 * k + 1) ++ shownByte s (4 * k)) i = _
  simp only [BitVec.getLsbD_append]

end Sys2Proof.Machine
end

