-- ==== Sys2Proof/Laws/State.lean ====
section
/-! SUPPORT. Every field of the state after every shared update: one equation a field, all true by `rfl`, gathered in
one `@[simp]` lemma per update (simp uses each equation by itself). -/

namespace Sys2Proof.Machine

variable (s : State)

@[simp] theorem emit_fields (o : Output) :
    (emit o s).life = s.life ∧ (emit o s).curValid = s.curValid ∧ (emit o s).curOp = s.curOp ∧
    (emit o s).fill = s.fill ∧ (emit o s).acc = s.acc ∧ (emit o s).feedsDone = s.feedsDone ∧
    (emit o s).evtCount = s.evtCount ∧ (emit o s).evtTab = s.evtTab ∧ (emit o s).cmdCount = s.cmdCount ∧
    (emit o s).cmdTab = s.cmdTab ∧ (emit o s).busy = s.busy ∧ (emit o s).feedLen = s.feedLen ∧
    (emit o s).feedIdx = s.feedIdx ∧ (emit o s).wait = s.wait ∧ (emit o s).chunk = s.chunk ∧
    (emit o s).phase = s.phase ∧ (emit o s).inbox = s.inbox ∧ (emit o s).agent = s.agent ∧
    (emit o s).out = s.out ++ [o] ∧ (emit o s).draws = s.draws ∧ (emit o s).cfg = s.cfg := by
  refine ⟨rfl, rfl, rfl, rfl, rfl, rfl, rfl, rfl, rfl, rfl, rfl, rfl, rfl, rfl, rfl, rfl, rfl, rfl, rfl, rfl, rfl⟩

@[simp] theorem respond_fields (w : Word) :
    (respond w s).life = s.life ∧ (respond w s).curValid = s.curValid ∧ (respond w s).curOp = s.curOp ∧
    (respond w s).fill = s.fill ∧ (respond w s).acc = s.acc ∧ (respond w s).feedsDone = s.feedsDone ∧
    (respond w s).evtCount = s.evtCount ∧ (respond w s).evtTab = s.evtTab ∧ (respond w s).cmdCount = s.cmdCount ∧
    (respond w s).cmdTab = s.cmdTab ∧ (respond w s).busy = s.busy ∧ (respond w s).feedLen = s.feedLen ∧
    (respond w s).feedIdx = s.feedIdx ∧ (respond w s).wait = s.wait ∧ (respond w s).chunk = s.chunk ∧
    (respond w s).phase = s.phase ∧ (respond w s).inbox = s.inbox ∧ (respond w s).agent = s.agent ∧
    (respond w s).out = s.out ++ [.response w] ∧ (respond w s).draws = s.draws ∧ (respond w s).cfg = s.cfg := by
  refine ⟨rfl, rfl, rfl, rfl, rfl, rfl, rfl, rfl, rfl, rfl, rfl, rfl, rfl, rfl, rfl, rfl, rfl, rfl, rfl, rfl, rfl⟩

@[simp] theorem report_fields (code b : Byte) :
    (report code b s).life = s.life ∧ (report code b s).curValid = s.curValid ∧ (report code b s).curOp = s.curOp ∧
    (report code b s).fill = s.fill ∧ (report code b s).acc = s.acc ∧ (report code b s).feedsDone = s.feedsDone ∧
    (report code b s).evtCount = s.evtCount ∧ (report code b s).evtTab = s.evtTab ∧
    (report code b s).cmdCount = s.cmdCount ∧ (report code b s).cmdTab = s.cmdTab ∧ (report code b s).busy = s.busy ∧
    (report code b s).feedLen = s.feedLen ∧ (report code b s).feedIdx = s.feedIdx ∧ (report code b s).wait = s.wait ∧
    (report code b s).chunk = s.chunk ∧ (report code b s).phase = s.phase ∧ (report code b s).inbox = s.inbox ∧
    (report code b s).agent = s.agent ∧
    (report code b s).out = s.out ++ [.report { code := code, byte := b, index := s.feedIdx }] ∧
    (report code b s).draws = s.draws ∧ (report code b s).cfg = s.cfg := by
  refine ⟨rfl, rfl, rfl, rfl, rfl, rfl, rfl, rfl, rfl, rfl, rfl, rfl, rfl, rfl, rfl, rfl, rfl, rfl, rfl, rfl, rfl⟩

@[simp] theorem appendEvt_fields (e : Entry) :
    (appendEvt e s).life = s.life ∧ (appendEvt e s).curValid = s.curValid ∧ (appendEvt e s).curOp = s.curOp ∧
    (appendEvt e s).fill = s.fill ∧ (appendEvt e s).acc = s.acc ∧ (appendEvt e s).feedsDone = s.feedsDone ∧
    (appendEvt e s).evtCount = s.evtCount + 1 ∧ (appendEvt e s).evtTab = writeEntry s.evtTab s.evtCount e ∧
    (appendEvt e s).cmdCount = s.cmdCount ∧ (appendEvt e s).cmdTab = s.cmdTab ∧ (appendEvt e s).busy = s.busy ∧
    (appendEvt e s).feedLen = s.feedLen ∧ (appendEvt e s).feedIdx = s.feedIdx ∧ (appendEvt e s).wait = s.wait ∧
    (appendEvt e s).chunk = s.chunk ∧ (appendEvt e s).phase = s.phase ∧ (appendEvt e s).inbox = s.inbox ∧
    (appendEvt e s).agent = s.agent ∧ (appendEvt e s).out = s.out ∧ (appendEvt e s).draws = s.draws ∧
    (appendEvt e s).cfg = s.cfg := by
  refine ⟨rfl, rfl, rfl, rfl, rfl, rfl, rfl, rfl, rfl, rfl, rfl, rfl, rfl, rfl, rfl, rfl, rfl, rfl, rfl, rfl, rfl⟩

@[simp] theorem appendCmd_fields (e : Entry) :
    (appendCmd e s).life = s.life ∧ (appendCmd e s).curValid = s.curValid ∧ (appendCmd e s).curOp = s.curOp ∧
    (appendCmd e s).fill = s.fill ∧ (appendCmd e s).acc = s.acc ∧ (appendCmd e s).feedsDone = s.feedsDone ∧
    (appendCmd e s).evtCount = s.evtCount ∧ (appendCmd e s).evtTab = s.evtTab ∧
    (appendCmd e s).cmdCount = s.cmdCount + 1 ∧ (appendCmd e s).cmdTab = writeEntry s.cmdTab s.cmdCount e ∧
    (appendCmd e s).busy = s.busy ∧ (appendCmd e s).feedLen = s.feedLen ∧ (appendCmd e s).feedIdx = s.feedIdx ∧
    (appendCmd e s).wait = s.wait ∧ (appendCmd e s).chunk = s.chunk ∧ (appendCmd e s).phase = s.phase ∧
    (appendCmd e s).inbox = s.inbox ∧ (appendCmd e s).agent = s.agent ∧ (appendCmd e s).out = s.out ∧
    (appendCmd e s).draws = s.draws ∧ (appendCmd e s).cfg = s.cfg := by
  refine ⟨rfl, rfl, rfl, rfl, rfl, rfl, rfl, rfl, rfl, rfl, rfl, rfl, rfl, rfl, rfl, rfl, rfl, rfl, rfl, rfl, rfl⟩

@[simp] theorem emptyRegistry_fields :
    (emptyRegistry s).life = s.life ∧ (emptyRegistry s).curValid = s.curValid ∧ (emptyRegistry s).curOp = s.curOp ∧
    (emptyRegistry s).fill = s.fill ∧ (emptyRegistry s).acc = s.acc ∧ (emptyRegistry s).feedsDone = s.feedsDone ∧
    (emptyRegistry s).evtCount = 0 ∧ (emptyRegistry s).evtTab = freeTab s.cfg s.draws false s.cfg.evtCap ∧
    (emptyRegistry s).cmdCount = 0 ∧ (emptyRegistry s).cmdTab = freeTab s.cfg s.draws true s.cfg.cmdCap ∧
    (emptyRegistry s).busy = s.busy ∧ (emptyRegistry s).feedLen = s.feedLen ∧ (emptyRegistry s).feedIdx = s.feedIdx ∧
    (emptyRegistry s).wait = s.wait ∧ (emptyRegistry s).chunk = s.chunk ∧ (emptyRegistry s).phase = s.phase ∧
    (emptyRegistry s).inbox = s.inbox ∧ (emptyRegistry s).agent = s.agent ∧ (emptyRegistry s).out = s.out ∧
    (emptyRegistry s).draws = s.draws + 1 ∧ (emptyRegistry s).cfg = s.cfg := by
  refine ⟨rfl, rfl, rfl, rfl, rfl, rfl, rfl, rfl, rfl, rfl, rfl, rfl, rfl, rfl, rfl, rfl, rfl, rfl, rfl, rfl, rfl⟩

@[simp] theorem clearCommand_fields :
    (clearCommand s).life = s.life ∧ (clearCommand s).curValid = false ∧ (clearCommand s).curOp = 0 ∧
    (clearCommand s).fill = 0 ∧ (clearCommand s).acc = s.acc ∧ (clearCommand s).feedsDone = s.feedsDone ∧
    (clearCommand s).evtCount = s.evtCount ∧ (clearCommand s).evtTab = s.evtTab ∧
    (clearCommand s).cmdCount = s.cmdCount ∧ (clearCommand s).cmdTab = s.cmdTab ∧ (clearCommand s).busy = s.busy ∧
    (clearCommand s).feedLen = s.feedLen ∧ (clearCommand s).feedIdx = s.feedIdx ∧ (clearCommand s).wait = s.wait ∧
    (clearCommand s).chunk = s.chunk ∧ (clearCommand s).phase = s.phase ∧ (clearCommand s).inbox = s.inbox ∧
    (clearCommand s).agent = s.agent ∧ (clearCommand s).out = s.out ∧ (clearCommand s).draws = s.draws ∧
    (clearCommand s).cfg = s.cfg := by
  refine ⟨rfl, rfl, rfl, rfl, rfl, rfl, rfl, rfl, rfl, rfl, rfl, rfl, rfl, rfl, rfl, rfl, rfl, rfl, rfl, rfl, rfl⟩

@[simp] theorem startCommand_fields (op : Byte) :
    (startCommand op s).life = s.life ∧ (startCommand op s).curValid = true ∧ (startCommand op s).curOp = op ∧
    (startCommand op s).fill = 0 ∧ (startCommand op s).acc = s.acc ∧ (startCommand op s).feedsDone = s.feedsDone ∧
    (startCommand op s).evtCount = s.evtCount ∧ (startCommand op s).evtTab = s.evtTab ∧
    (startCommand op s).cmdCount = s.cmdCount ∧ (startCommand op s).cmdTab = s.cmdTab ∧
    (startCommand op s).busy = s.busy ∧ (startCommand op s).feedLen = s.feedLen ∧
    (startCommand op s).feedIdx = s.feedIdx ∧ (startCommand op s).wait = s.wait ∧
    (startCommand op s).chunk = s.chunk ∧ (startCommand op s).phase = s.phase ∧ (startCommand op s).inbox = s.inbox ∧
    (startCommand op s).agent = s.agent ∧ (startCommand op s).out = s.out ∧ (startCommand op s).draws = s.draws ∧
    (startCommand op s).cfg = s.cfg := by
  refine ⟨rfl, rfl, rfl, rfl, rfl, rfl, rfl, rfl, rfl, rfl, rfl, rfl, rfl, rfl, rfl, rfl, rfl, rfl, rfl, rfl, rfl⟩

@[simp] theorem appendByte_fields (b : Byte) :
    (appendByte b s).life = s.life ∧ (appendByte b s).curValid = s.curValid ∧ (appendByte b s).curOp = s.curOp ∧
    (appendByte b s).fill = s.fill + 1 ∧ (appendByte b s).acc = s.acc.setIfInBounds s.fill.val b ∧
    (appendByte b s).feedsDone = s.feedsDone ∧ (appendByte b s).evtCount = s.evtCount ∧
    (appendByte b s).evtTab = s.evtTab ∧ (appendByte b s).cmdCount = s.cmdCount ∧
    (appendByte b s).cmdTab = s.cmdTab ∧ (appendByte b s).busy = s.busy ∧ (appendByte b s).feedLen = s.feedLen ∧
    (appendByte b s).feedIdx = s.feedIdx ∧ (appendByte b s).wait = s.wait ∧ (appendByte b s).chunk = s.chunk ∧
    (appendByte b s).phase = s.phase ∧ (appendByte b s).inbox = s.inbox ∧ (appendByte b s).agent = s.agent ∧
    (appendByte b s).out = s.out ∧ (appendByte b s).draws = s.draws ∧ (appendByte b s).cfg = s.cfg := by
  refine ⟨rfl, rfl, rfl, rfl, rfl, rfl, rfl, rfl, rfl, rfl, rfl, rfl, rfl, rfl, rfl, rfl, rfl, rfl, rfl, rfl, rfl⟩

@[simp] theorem finishFeed_fields :
    (finishFeed s).life = s.life ∧ (finishFeed s).curValid = s.curValid ∧ (finishFeed s).curOp = s.curOp ∧
    (finishFeed s).fill = s.fill ∧ (finishFeed s).acc = s.acc ∧ (finishFeed s).feedsDone = s.feedsDone + 1 ∧
    (finishFeed s).evtCount = s.evtCount ∧ (finishFeed s).evtTab = s.evtTab ∧ (finishFeed s).cmdCount = s.cmdCount ∧
    (finishFeed s).cmdTab = s.cmdTab ∧ (finishFeed s).busy = false ∧ (finishFeed s).feedLen = s.feedLen ∧
    (finishFeed s).feedIdx = s.feedIdx ∧ (finishFeed s).wait = s.wait ∧ (finishFeed s).chunk = s.chunk ∧
    (finishFeed s).phase = s.phase ∧ (finishFeed s).inbox = s.inbox ∧ (finishFeed s).agent = s.agent ∧
    (finishFeed s).out = s.out ++ [.response (s.feedLen.setWidth 32)] ∧ (finishFeed s).draws = s.draws ∧
    (finishFeed s).cfg = s.cfg := by
  refine ⟨rfl, rfl, rfl, rfl, rfl, rfl, rfl, rfl, rfl, rfl, rfl, rfl, rfl, rfl, rfl, rfl, rfl, rfl, rfl, rfl, rfl⟩

@[simp] theorem abortFeed_fields (w : Word) :
    (abortFeed w s).life = s.life ∧ (abortFeed w s).curValid = s.curValid ∧ (abortFeed w s).curOp = s.curOp ∧
    (abortFeed w s).fill = s.fill ∧ (abortFeed w s).acc = s.acc ∧ (abortFeed w s).feedsDone = s.feedsDone ∧
    (abortFeed w s).evtCount = s.evtCount ∧ (abortFeed w s).evtTab = s.evtTab ∧
    (abortFeed w s).cmdCount = s.cmdCount ∧ (abortFeed w s).cmdTab = s.cmdTab ∧ (abortFeed w s).busy = false ∧
    (abortFeed w s).feedLen = s.feedLen ∧ (abortFeed w s).feedIdx = s.feedIdx ∧ (abortFeed w s).wait = .none ∧
    (abortFeed w s).chunk = s.chunk ∧ (abortFeed w s).phase = s.phase ∧ (abortFeed w s).inbox = s.inbox ∧
    (abortFeed w s).agent = s.agent ∧ (abortFeed w s).out = s.out ++ [.response w] ∧
    (abortFeed w s).draws = s.draws ∧ (abortFeed w s).cfg = s.cfg := by
  refine ⟨rfl, rfl, rfl, rfl, rfl, rfl, rfl, rfl, rfl, rfl, rfl, rfl, rfl, rfl, rfl, rfl, rfl, rfl, rfl, rfl, rfl⟩

@[simp] theorem failFeed_fields :
    (failFeed s).life = s.life ∧ (failFeed s).curValid = s.curValid ∧ (failFeed s).curOp = s.curOp ∧
    (failFeed s).fill = s.fill ∧ (failFeed s).acc = s.acc ∧ (failFeed s).feedsDone = s.feedsDone ∧
    (failFeed s).evtCount = s.evtCount ∧ (failFeed s).evtTab = s.evtTab ∧ (failFeed s).cmdCount = s.cmdCount ∧
    (failFeed s).cmdTab = s.cmdTab ∧ (failFeed s).busy = false ∧ (failFeed s).feedLen = s.feedLen ∧
    (failFeed s).feedIdx = s.feedIdx ∧ (failFeed s).wait = .none ∧ (failFeed s).chunk = s.chunk ∧
    (failFeed s).phase = s.phase ∧ (failFeed s).inbox = s.inbox ∧ (failFeed s).agent = s.agent ∧
    (failFeed s).out = s.out ++ [.response (failWord s.feedIdx)] ∧ (failFeed s).draws = s.draws ∧
    (failFeed s).cfg = s.cfg := by
  refine ⟨rfl, rfl, rfl, rfl, rfl, rfl, rfl, rfl, rfl, rfl, rfl, rfl, rfl, rfl, rfl, rfl, rfl, rfl, rfl, rfl, rfl⟩

@[simp] theorem sendDispatch_fields (k : Kind) (key : Byte) (p : List Byte) (e : Entry) :
    (sendDispatch k key p e s).life = s.life ∧ (sendDispatch k key p e s).curValid = s.curValid ∧
    (sendDispatch k key p e s).curOp = s.curOp ∧ (sendDispatch k key p e s).fill = s.fill ∧
    (sendDispatch k key p e s).acc = s.acc ∧ (sendDispatch k key p e s).feedsDone = s.feedsDone ∧
    (sendDispatch k key p e s).evtCount = s.evtCount ∧ (sendDispatch k key p e s).evtTab = s.evtTab ∧
    (sendDispatch k key p e s).cmdCount = s.cmdCount ∧ (sendDispatch k key p e s).cmdTab = s.cmdTab ∧
    (sendDispatch k key p e s).busy = s.busy ∧ (sendDispatch k key p e s).feedLen = s.feedLen ∧
    (sendDispatch k key p e s).feedIdx = s.feedIdx ∧ (sendDispatch k key p e s).wait = k.wait ∧
    (sendDispatch k key p e s).chunk = s.chunk ∧ (sendDispatch k key p e s).phase = s.phase ∧
    (sendDispatch k key p e s).inbox = s.inbox ∧ (sendDispatch k key p e s).agent = s.agent ∧
    (sendDispatch k key p e s).out = s.out ++ [.dispatch (dispatchRecord k key p e)] ∧
    (sendDispatch k key p e s).draws = s.draws ∧ (sendDispatch k key p e s).cfg = s.cfg := by
  refine ⟨rfl, rfl, rfl, rfl, rfl, rfl, rfl, rfl, rfl, rfl, rfl, rfl, rfl, rfl, rfl, rfl, rfl, rfl, rfl, rfl, rfl⟩

@[simp] theorem eventOk_fields :
    (eventOk s).life = s.life ∧ (eventOk s).curValid = s.curValid ∧ (eventOk s).curOp = s.curOp ∧
    (eventOk s).fill = s.fill ∧ (eventOk s).acc = s.acc ∧ (eventOk s).feedsDone = s.feedsDone ∧
    (eventOk s).evtCount = s.evtCount ∧ (eventOk s).evtTab = s.evtTab ∧ (eventOk s).cmdCount = s.cmdCount ∧
    (eventOk s).cmdTab = s.cmdTab ∧ (eventOk s).busy = s.busy ∧ (eventOk s).feedLen = s.feedLen ∧
    (eventOk s).feedIdx = s.feedIdx ∧ (eventOk s).wait = s.wait ∧ (eventOk s).chunk = s.chunk ∧
    (eventOk s).phase = .action ∧ (eventOk s).inbox = s.inbox ∧ (eventOk s).agent = s.agent ∧
    (eventOk s).out = s.out ∧ (eventOk s).draws = s.draws ∧ (eventOk s).cfg = s.cfg := by
  refine ⟨rfl, rfl, rfl, rfl, rfl, rfl, rfl, rfl, rfl, rfl, rfl, rfl, rfl, rfl, rfl, rfl, rfl, rfl, rfl, rfl, rfl⟩

@[simp] theorem drawDecoder_fields :
    (drawDecoder s).life = s.life ∧ (drawDecoder s).curValid = (Config.freeDecoder s.draws).curValid ∧
    (drawDecoder s).curOp = (Config.freeDecoder s.draws).curOp ∧
    (drawDecoder s).fill = (Config.freeDecoder s.draws).fill ∧
    (drawDecoder s).acc = (Config.freeDecoder s.draws).acc ∧
    (drawDecoder s).feedsDone = (Config.freeDecoder s.draws).feedsDone ∧ (drawDecoder s).evtCount = s.evtCount ∧
    (drawDecoder s).evtTab = s.evtTab ∧ (drawDecoder s).cmdCount = s.cmdCount ∧ (drawDecoder s).cmdTab = s.cmdTab ∧
    (drawDecoder s).busy = s.busy ∧ (drawDecoder s).feedLen = s.feedLen ∧ (drawDecoder s).feedIdx = s.feedIdx ∧
    (drawDecoder s).wait = s.wait ∧ (drawDecoder s).chunk = s.chunk ∧ (drawDecoder s).phase = s.phase ∧
    (drawDecoder s).inbox = s.inbox ∧ (drawDecoder s).agent = s.agent ∧ (drawDecoder s).out = s.out ∧
    (drawDecoder s).draws = s.draws + 1 ∧ (drawDecoder s).cfg = s.cfg := by
  refine ⟨rfl, rfl, rfl, rfl, rfl, rfl, rfl, rfl, rfl, rfl, rfl, rfl, rfl, rfl, rfl, rfl, rfl, rfl, rfl, rfl, rfl⟩

@[simp] theorem drawFeed_fields :
    (drawFeed s).life = s.life ∧ (drawFeed s).curValid = s.curValid ∧ (drawFeed s).curOp = s.curOp ∧
    (drawFeed s).fill = s.fill ∧ (drawFeed s).acc = s.acc ∧ (drawFeed s).feedsDone = s.feedsDone ∧
    (drawFeed s).evtCount = s.evtCount ∧ (drawFeed s).evtTab = s.evtTab ∧ (drawFeed s).cmdCount = s.cmdCount ∧
    (drawFeed s).cmdTab = s.cmdTab ∧ (drawFeed s).busy = s.busy ∧
    (drawFeed s).feedLen = (Config.freeFeed s.draws).1 ∧ (drawFeed s).feedIdx = (Config.freeFeed s.draws).2 ∧
    (drawFeed s).wait = s.wait ∧ (drawFeed s).chunk = s.chunk ∧ (drawFeed s).phase = s.phase ∧
    (drawFeed s).inbox = s.inbox ∧ (drawFeed s).agent = s.agent ∧ (drawFeed s).out = s.out ∧
    (drawFeed s).draws = s.draws + 1 ∧ (drawFeed s).cfg = s.cfg := by
  refine ⟨rfl, rfl, rfl, rfl, rfl, rfl, rfl, rfl, rfl, rfl, rfl, rfl, rfl, rfl, rfl, rfl, rfl, rfl, rfl, rfl, rfl⟩

/-- The fields `nextByte` keeps, whether it goes on or ends the FEED. -/
@[simp] theorem nextByte_kept :
    (nextByte s).life = s.life ∧ (nextByte s).curValid = s.curValid ∧ (nextByte s).curOp = s.curOp ∧
    (nextByte s).fill = s.fill ∧ (nextByte s).acc = s.acc ∧ (nextByte s).evtCount = s.evtCount ∧
    (nextByte s).evtTab = s.evtTab ∧ (nextByte s).cmdCount = s.cmdCount ∧ (nextByte s).cmdTab = s.cmdTab ∧
    (nextByte s).feedLen = s.feedLen ∧ (nextByte s).wait = s.wait ∧ (nextByte s).chunk = s.chunk ∧
    (nextByte s).inbox = s.inbox ∧ (nextByte s).agent = s.agent ∧ (nextByte s).draws = s.draws ∧
    (nextByte s).cfg = s.cfg := by
  unfold nextByte
  split <;> simp

end Sys2Proof.Machine
end

