-- ==== Sys2Proof/Laws/Ops.lean ====
section
/-! SUPPORT. What each shared operation can do, said once: the request checks, the end of a byte step, the registry
and the arbiter. Proofs about meanings cite these and do not unfold the operations. -/

namespace Sys2Proof.Machine

variable {s t : State}

/-! ### Request checks -/

theorem checkBusy_next {run : Result} (h : checkBusy s run = .next t) : s.busy = false ∧ run = .next t := by
  unfold checkBusy at h
  cases hb : s.busy <;> simp_all

theorem checkLive_next {run : Result} (h : checkLive s run = .next t) :
    s.busy = false ∧ s.life = .live ∧ run = .next t := by
  obtain ⟨hb, h⟩ := checkBusy_next h
  cases hl : s.life <;> simp_all

theorem checkBusy_fault {run : Result} {f : Fault} (h : checkBusy s run = .fault f) : run = .fault f := by
  unfold checkBusy at h
  cases hb : s.busy <;> simp_all

theorem checkLive_fault {run : Result} {f : Fault} (h : checkLive s run = .fault f) : run = .fault f := by
  have h := checkBusy_fault h
  cases hl : s.life <;> simp_all

theorem checkBusy_of_not_busy {run : Result} (h : s.busy = false) : checkBusy s run = run := by
  simp [checkBusy, h]

theorem checkBusy_of_busy {run : Result} (h : s.busy = true) : checkBusy s run = .refused .reentry := by
  simp [checkBusy, h]

theorem checkLive_of_live {run : Result} (hb : s.busy = false) (hl : s.life = .live) : checkLive s run = run := by
  simp [checkLive, checkBusy, hb, hl]

theorem checkLive_of_uninit {run : Result} (hb : s.busy = false) (hl : s.life = .uninit) :
    checkLive s run = .refused .uninit := by
  simp [checkLive, checkBusy, hb, hl]

theorem checkLive_of_busy {run : Result} (hb : s.busy = true) : checkLive s run = .refused .reentry := by
  simp [checkLive, checkBusy, hb]

/-! ### The end of a byte step (R35, R121, R136) -/

theorem nextByte_of_more (h : s.feedIdx.toNat + 1 < s.feedLen.toNat) :
    nextByte s = { s with feedIdx := s.feedIdx + 1, phase := .event } := by
  simp [nextByte, h]

theorem nextByte_of_last (h : ¬ s.feedIdx.toNat + 1 < s.feedLen.toNat) : nextByte s = finishFeed s := by
  simp [nextByte, h]

theorem nextByte_cases (s : State) :
    (s.feedIdx.toNat + 1 < s.feedLen.toNat ∧
      nextByte s = { s with feedIdx := s.feedIdx + 1, phase := .event }) ∨
    (s.feedLen.toNat ≤ s.feedIdx.toNat + 1 ∧ nextByte s = finishFeed s) := by
  rcases Nat.lt_or_ge (s.feedIdx.toNat + 1) s.feedLen.toNat with h | h
  · exact .inl ⟨h, nextByte_of_more h⟩
  · exact .inr ⟨h, nextByte_of_last (by omega)⟩

/-- `feed_idx` does not wrap when the FEED goes on (R35). -/
theorem feedIdx_succ_toNat (h : s.feedIdx.toNat + 1 < s.feedLen.toNat) :
    (s.feedIdx + 1).toNat = s.feedIdx.toNat + 1 := by
  have := s.feedLen.isLt
  rw [BitVec.toNat_add]
  simp
  omega

/-! ### The registry (R27, R28) -/

/-- An append extends the sequence by one entry and changes none of it. -/
theorem take_writeEntry (tab : List Entry) (n : Nat) (e : Entry) :
    (writeEntry tab n e).take (n + 1) = tab.take n ++ [e] := by
  unfold writeEntry
  rcases Nat.le_total n tab.length with h | h
  · rw [List.take_append, List.length_take, Nat.min_eq_left h, List.take_of_length_le (by simp)]
    simp
  · rw [List.drop_eq_nil_of_le (by omega), List.take_of_length_le (by simp)]

@[simp] theorem appendEvt_evtSeq (e : Entry) (s : State) : (appendEvt e s).evtSeq = s.evtSeq ++ [e] := by
  simp [State.evtSeq, take_writeEntry]

@[simp] theorem appendEvt_cmdSeq (e : Entry) (s : State) : (appendEvt e s).cmdSeq = s.cmdSeq := by
  simp [State.cmdSeq]

@[simp] theorem appendCmd_cmdSeq (e : Entry) (s : State) : (appendCmd e s).cmdSeq = s.cmdSeq ++ [e] := by
  simp [State.cmdSeq, take_writeEntry]

@[simp] theorem appendCmd_evtSeq (e : Entry) (s : State) : (appendCmd e s).evtSeq = s.evtSeq := by
  simp [State.evtSeq]

/-- Within the table, an append writes the one entry at its index (R53). -/
theorem writeEntry_eq_set {tab : List Entry} {n : Nat} (e : Entry) (h : n < tab.length) :
    writeEntry tab n e = tab.set n e := by
  rw [writeEntry, List.set_eq_take_append_cons_drop, if_pos h]

theorem writeEntry_length {tab : List Entry} {n : Nat} (e : Entry) (h : n < tab.length) :
    (writeEntry tab n e).length = tab.length := by
  rw [writeEntry_eq_set e h, List.length_set]

/-- What an append leaves in the table: the entry, and entries that were there. -/
theorem mem_writeEntry {tab : List Entry} {n : Nat} {e f : Entry} (h : f ∈ writeEntry tab n e) : f = e ∨ f ∈ tab := by
  rcases List.mem_append.mp h with h | h
  · exact .inr (List.mem_of_mem_take h)
  · rcases List.mem_cons.mp h with h | h
    · exact .inl h
    · exact .inr (List.mem_of_mem_drop h)

@[simp] theorem freeTab_length (c : Config) (d : Nat) (k : Bool) (n : Nat) : (freeTab c d k n).length = n := by
  simp [freeTab]

/-- The free entries have the configured widths. -/
theorem freeTab_widths {c : Config} {d : Nat} {k : Bool} {n : Nat} {e : Entry} (h : e ∈ freeTab c d k n) :
    e.handler.toNat < 2 ^ c.handlerW ∧ e.context.toNat < 2 ^ c.contextW := by
  obtain ⟨j, -, rfl⟩ := List.mem_map.mp h
  exact ⟨lowBits_lt _ _, lowBits_lt _ _⟩

@[simp] theorem emptyRegistry_evtSeq (s : State) : (emptyRegistry s).evtSeq = [] := by
  simp [State.evtSeq]

@[simp] theorem emptyRegistry_cmdSeq (s : State) : (emptyRegistry s).cmdSeq = [] := by
  simp [State.cmdSeq]

@[simp] theorem answer_ofBit_bit (a : Answer) : Answer.ofBit a.bit = a := by
  cases a <;> rfl

/-- The arbiter's lookup reads the two sequences only. -/
theorem lookup_congr {s s' : State} (he : s'.evtSeq = s.evtSeq) (hc : s'.cmdSeq = s.cmdSeq) (k : Kind) (key : Byte) :
    s'.lookup k key = s.lookup k key := by
  cases k <;> simp [State.lookup, State.seqOf, he, hc]

theorem lookup_none_iff (s : State) (k : Kind) (key : Byte) :
    s.lookup k key = none ↔ ∀ e ∈ s.seqOf k, e.key ≠ key := by
  simp [State.lookup, List.find?_eq_none]

/-- A match found by the lookup is an entry of the sequence with that key. -/
theorem lookup_some {k : Kind} {key : Byte} {e : Entry} (h : s.lookup k key = some e) :
    e ∈ s.seqOf k ∧ e.key = key := by
  unfold State.lookup at h
  exact ⟨List.mem_of_find?_eq_some h, by simpa using List.find?_some h⟩

/-! ### The arbiter (R104, R105) -/

theorem dispatch_of_some {k : Kind} {key : Byte} {p : List Byte} {f : State → State} {e : Entry}
    (h : s.lookup k key = some e) : dispatch k key p f s = sendDispatch k key p e s := by
  simp [dispatch, h]

theorem dispatch_of_none {k : Kind} {key : Byte} {p : List Byte} {f : State → State}
    (h : s.lookup k key = none) : dispatch k key p f s = f s := by
  simp [dispatch, h]

theorem dispatch_cases (k : Kind) (key : Byte) (p : List Byte) (f : State → State) (s : State) :
    (∃ e, s.lookup k key = some e ∧ dispatch k key p f s = sendDispatch k key p e s) ∨
    (s.lookup k key = none ∧ dispatch k key p f s = f s) := by
  cases h : s.lookup k key with
  | some e => exact .inl ⟨e, rfl, dispatch_of_some h⟩
  | none => exact .inr ⟨rfl, dispatch_of_none h⟩

/-- What an answer does, by the answer and what was out. -/
theorem receiveAnswer_cases (a : Answer) (s : State) :
    (a = .fail ∧ receiveAnswer a s = failFeed s) ∨
    (a = .ok ∧ s.wait = .event ∧ receiveAnswer a s = eventOk { s with wait := .none }) ∨
    (a = .ok ∧ s.wait = .command ∧ receiveAnswer a s = commandOk { s with wait := .none }) ∨
    (a = .ok ∧ s.wait = .none ∧ receiveAnswer a s = s) := by
  cases a <;> cases h : s.wait <;> simp [receiveAnswer, h]

/-- The state a successful command leaves before byte i+1 (R125, R132). -/
theorem commandOk_cases (s : State) :
    (s.curValid = true ∧ commandOk s = nextByte (clearCommand s)) ∨
    (s.curValid = false ∧ commandOk s = nextByte s) := by
  cases h : s.curValid <;> simp [commandOk, h]

/-! ### The payload (R131) -/

theorem payload_length (s : State) : s.payload.length = s.fill.val := by
  have := s.fill.isLt
  simp [State.payload, accCap]
  omega

/-- A payload byte below the capacity raises the fill count by one, with no wrap (R52, R130). -/
theorem fill_succ_val (h : s.fill.val < accCap) : (s.fill + 1).val = s.fill.val + 1 := by
  rw [Fin.val_add_one_of_lt']
  simp [accCap] at h
  omega

end Sys2Proof.Machine
end

