-- ==== Sys2Proof/Laws/PerInstr.lean ====
section
/-! SUPPORT. The per-instruction family `Shape`: what each operation's encoding is as bits, one lemma a constructor. -/

namespace Sys2Proof.Laws.Shape

/-- The row's fixed bits in spec/opcode_table.json: a legal host request has RSV = 0 and the row's OP, an illegal one
has OP = 111 or a bit of RSV set, and a stream row is one byte. -/
def Statement (i : Instr) : Prop :=
  match encode i with
  | .byte b => i = .stream67Fixed11 ∧ b = 0x67 ∨ i = .streamFixed0 b ∨ i = .streamFixedN b ∨ i = .streamInvalid b ∨
      i = .streamDataBlock b ∨ i = .streamPayloadByte b ∨ i = .streamPendingByte b
  | .request r =>
    match i with
    | .reservedOp7 rsv => opField r.word = 7 ∧ rsvField r.word = rsv
    | .illegalRsv op rsv => opField r.word = op ∧ rsvField r.word = rsv
    | .create => opField r.word = 0 ∧ rsvField r.word = 0
    | .reset => opField r.word = 1 ∧ rsvField r.word = 0
    | .destroy => opField r.word = 2 ∧ rsvField r.word = 0
    | .regEvent k _ _ => opField r.word = 3 ∧ rsvField r.word = 0 ∧ keyField r.word = k
    | .regCommand k _ _ => opField r.word = 4 ∧ rsvField r.word = 0 ∧ keyField r.word = k
    | .feed len _ => opField r.word = 5 ∧ rsvField r.word = 0 ∧ lenField r.word = len
    | .statusRead sel => opField r.word = 6 ∧ rsvField r.word = 0 ∧ keyField r.word = sel
    | .stream67Fixed11 => False
    | .streamFixed0 _ => False
    | .streamFixedN _ => False
    | .streamInvalid _ => False
    | .streamDataBlock _ => False
    | .streamPayloadByte _ => False
    | .streamPendingByte _ => False

theorem create : Statement .create := by simp [Statement, encode]
theorem reset : Statement .reset := by simp [Statement, encode]
theorem destroy : Statement .destroy := by simp [Statement, encode]
theorem regEvent (key : Byte) (handler context : Wide) : Statement (.regEvent key handler context) := by
  simp [Statement, encode]
theorem regCommand (key : Byte) (handler context : Wide) : Statement (.regCommand key handler context) := by
  simp [Statement, encode]
theorem feed (len : Half) (data : List Byte) : Statement (.feed len data) := by simp [Statement, encode]
theorem statusRead (sel : Byte) : Statement (.statusRead sel) := by simp [Statement, encode]
theorem reservedOp7 (rsv : BitVec 5) : Statement (.reservedOp7 rsv) := by simp [Statement, encode]
theorem illegalRsv (op : BitVec 3) (rsv : BitVec 5) : Statement (.illegalRsv op rsv) := by
  simp [Statement, encode]
theorem stream67Fixed11 : Statement .stream67Fixed11 := by simp [Statement, encode]
theorem streamFixed0 (b : Byte) : Statement (.streamFixed0 b) := by simp [Statement, encode]
theorem streamFixedN (b : Byte) : Statement (.streamFixedN b) := by simp [Statement, encode]
theorem streamInvalid (b : Byte) : Statement (.streamInvalid b) := by simp [Statement, encode]
theorem streamDataBlock (b : Byte) : Statement (.streamDataBlock b) := by simp [Statement, encode]
theorem streamPayloadByte (b : Byte) : Statement (.streamPayloadByte b) := by simp [Statement, encode]
theorem streamPendingByte (b : Byte) : Statement (.streamPendingByte b) := by simp [Statement, encode]

end Sys2Proof.Laws.Shape
end

