-- ==== Sys2Proof/Laws/Step.lean ====
section
/-! SUPPORT. What a step can do, said once (R12, R121), and the first-match rule of the arbiter by index (R103, R104). -/

namespace Sys2Proof.Machine

variable {s t : State}

/-- The first entry with the key, given by its index, is what the lookup finds (R104). -/
theorem lookup_of_first {k : Kind} {key : Byte} {j : Nat} {e : Entry} (h : (s.seqOf k)[j]? = some e)
    (hk : e.key = key) (hf : ∀ i f, i < j → (s.seqOf k)[i]? = some f → f.key ≠ key) : s.lookup k key = some e := by
  unfold State.lookup
  generalize s.seqOf k = l at h hf
  induction l generalizing j with
  | nil => simp at h
  | cons a l ih =>
    cases j with
    | zero =>
      simp only [List.getElem?_cons_zero, Option.some.injEq] at h
      subst h
      simp [hk]
    | succ j =>
      have h0 : a.key ≠ key := hf 0 a (by omega) (by simp)
      rw [List.find?_cons_of_neg (by simpa using h0)]
      exact ih (by simpa using h) (fun i f hi hf' => hf (i + 1) f (by omega) (by simpa using hf'))

theorem step_host (hw : s.wait = .none) (hb : s.busy = false) : step s = hostTurn s := by
  rw [step, turn, if_neg (by simp [hw]), if_neg (by simp [hb])]

theorem step_agent (hw : s.wait ≠ .none) : step s = agentTurn s := by
  rw [step, turn, if_pos hw]

theorem step_block (hw : s.wait = .none) (hb : s.busy = true) : step s = blockTurn s := by
  rw [step, turn, if_neg (by simp [hw]), if_pos hb]

/-- Whose turn it is, and everything that agent can do. -/
theorem step_cases (s : State) :
    (s.wait = .none ∧ s.busy = false ∧
      ((s.inbox = [] ∧ step s = .next s) ∨
       ∃ r rest, s.inbox = r :: rest ∧ step s = exec (decodeRequest s.cfg r) { s with inbox := rest })) ∨
    (s.wait ≠ .none ∧
      ((s.agent = [] ∧ step s = .next s) ∨
       (∃ a rest, s.agent = .answer a :: rest ∧ step s = .next (receiveAnswer a { s with agent := rest })) ∨
       ∃ r rest, s.agent = .request r :: rest ∧ step s = exec (decodeRequest s.cfg r) { s with agent := rest })) ∨
    (s.wait = .none ∧ s.busy = true ∧
      ((s.phase = .event ∧ step s = .next (dispatch .event evtChunk [] eventOk s)) ∨
       (s.phase = .action ∧ ∃ i, fetchStream s = .ok i ∧ step s = exec i s) ∨
       (s.phase = .action ∧ ∃ f, fetchStream s = .error f ∧ step s = .fault f))) := by
  by_cases hw : s.wait = .none
  · rcases Bool.eq_false_or_eq_true s.busy with hb | hb
    rotate_left
    · refine .inl ⟨hw, hb, ?_⟩
      rw [step_host hw hb]
      unfold hostTurn
      cases s.inbox with
      | nil => exact .inl ⟨rfl, rfl⟩
      | cons r rest => exact .inr ⟨r, rest, rfl, rfl⟩
    · refine .inr (.inr ⟨hw, hb, ?_⟩)
      rw [step_block hw hb]
      unfold blockTurn
      cases s.phase with
      | event => exact .inl ⟨rfl, rfl⟩
      | action =>
        cases fetchStream s with
        | error f => exact .inr (.inr ⟨rfl, f, rfl, rfl⟩)
        | ok i => exact .inr (.inl ⟨rfl, i, rfl, rfl⟩)
  · refine .inr (.inl ⟨hw, ?_⟩)
    rw [step_agent hw]
    unfold agentTurn
    cases s.agent with
    | nil => exact .inl ⟨rfl, rfl⟩
    | cons a rest =>
      cases a with
      | answer a => exact .inr (.inl ⟨a, rest, rfl, rfl⟩)
      | request r => exact .inr (.inr ⟨r, rest, rfl, rfl⟩)

/-- What the fetch of a stream byte gives in Idle: the byte's class picks the operation (R124). -/
theorem fetchStream_idle {i : Instr} (hv : s.curValid = false) (h : fetchStream s = .ok i) :
    ∃ b, s.chunk[s.feedIdx.toNat]? = some b ∧ i = decodeOpcode s.cfg b := by
  unfold fetchStream State.chunkRead at h
  cases hc : s.chunk[s.feedIdx.toNat]? with
  | none => simp [hc] at h
  | some b =>
    simp [hc, State.decState, hv, decodeStream] at h
    exact ⟨b, rfl, h.symm⟩

/-- What it gives in Accumulating: a payload byte below the declared length, a pending byte at it (R130, R134). -/
theorem fetchStream_accumulating {i : Instr} (hv : s.curValid = true) (h : fetchStream s = .ok i) :
    ∃ b n, s.chunk[s.feedIdx.toNat]? = some b ∧ s.cfg.lenOf s.curOp = some n ∧
      ((s.fill.val = n ∧ i = .streamPendingByte b) ∨ (s.fill.val < n ∧ i = .streamPayloadByte b)) := by
  unfold fetchStream State.chunkRead at h
  cases hc : s.chunk[s.feedIdx.toNat]? with
  | none => simp [hc] at h
  | some b =>
    cases hn : s.cfg.lenOf s.curOp with
    | none => simp [hc, State.decState, hv, decodeStream, hn] at h
    | some n =>
      refine ⟨b, n, rfl, rfl, ?_⟩
      simp only [hc, State.decState, hv, decodeStream, hn, if_true] at h
      by_cases h1 : s.fill.val = n
      · simp [h1] at h
        exact .inl ⟨h1, h.symm⟩
      · by_cases h2 : s.fill.val < n
        · simp [h1, h2] at h
          exact .inr ⟨h2, h.symm⟩
        · simp [h1, h2] at h

/-- The operations an opcode byte can stand for (R124). -/
theorem decodeOpcode_cases (c : Config) (b : Byte) :
    (b = 0x67 ∧ decodeOpcode c b = .stream67Fixed11) ∨
    (b ≠ 0x67 ∧ ∃ n, c.lenOf b = some n ∧ 1 ≤ n ∧ decodeOpcode c b = .streamFixedN b) ∨
    (c.lenOf b = some 0 ∧ decodeOpcode c b = .streamFixed0 b) ∨
    (c.schema b = .invalid ∧ decodeOpcode c b = .streamInvalid b) ∨
    (c.schema b = .dataBlock ∧ decodeOpcode c b = .streamDataBlock b) := by
  unfold decodeOpcode Config.lenOf
  by_cases hb : b = 0x67
  · exact .inl ⟨hb, if_pos hb⟩
  · rw [if_neg hb]
    cases hk : c.schema b with
    | invalid => simp
    | dataBlock => simp
    | fixed n =>
      by_cases h0 : n = 0
      · subst h0
        exact .inr (.inr (.inl ⟨rfl, rfl⟩))
      · refine .inr (.inl ⟨hb, n.val, rfl, ?_, by simp [h0]⟩)
        rcases n with ⟨n, hn⟩
        have : n ≠ 0 := fun h => h0 (Fin.ext h)
        simp only
        omega

/-- Every host request decodes to a host operation (R72, R75). -/
theorem decodeRequest_cases (c : Config) (r : Request) :
    (opField r.word = 7 ∧ decodeRequest c r = .reservedOp7 (rsvField r.word)) ∨
    (opField r.word ≠ 7 ∧ rsvField r.word ≠ 0 ∧
      decodeRequest c r = .illegalRsv (opField r.word) (rsvField r.word)) ∨
    (rsvField r.word = 0 ∧
      ((opField r.word = 0 ∧ decodeRequest c r = .create) ∨
       (opField r.word = 1 ∧ decodeRequest c r = .reset) ∨
       (opField r.word = 2 ∧ decodeRequest c r = .destroy) ∨
       (opField r.word = 3 ∧ ∃ k h x, decodeRequest c r = .regEvent k h x) ∨
       (opField r.word = 4 ∧ ∃ k h x, decodeRequest c r = .regCommand k h x) ∨
       (opField r.word = 5 ∧ decodeRequest c r = .feed (lenField r.word) r.data) ∨
       (opField r.word = 6 ∧ decodeRequest c r = .statusRead (keyField r.word)))) := by
  unfold decodeRequest
  dsimp only
  by_cases h7 : opField r.word = 7
  · exact .inl ⟨h7, if_pos h7⟩
  · rw [if_neg h7]
    by_cases hr : rsvField r.word = 0
    · refine .inr (.inr ⟨hr, ?_⟩)
      rw [if_neg (by simp [hr])]
      generalize opField r.word = op at *
      by_cases h0 : op = 0
      · simp [h0]
      by_cases h1 : op = 1
      · simp [h1]
      by_cases h2 : op = 2
      · simp [h2]
      by_cases h3 : op = 3
      · simp [h3]
      by_cases h4 : op = 4
      · simp [h4]
      by_cases h5 : op = 5
      · simp [h5]
      have h6 : op = 6 := by bv_omega
      simp [h6]
    · exact .inr (.inl ⟨h7, hr, by rw [if_pos hr]⟩)

end Sys2Proof.Machine
end

