-- ==== Sys2Proof/Tests/Slice0.lean ====
section
/-! SUPPORT. Tests whose expected results are written in spec/95_test_vectors.md or worked out by hand from the cited
rule, the smoke test of WellFormed, and for each statement with hypotheses a concrete state that meets them. -/

namespace Sys2Proof.Tests

open Sys2Proof.Machine

/-! ### Small states -/

/-- The test schema TS of spec/95_test_vectors.md section 0, with registries of 2 entries (V40.3). -/
def ts : Config where
  table := [(0x62, .fixed 0), (0x66, .fixed 0), (0x50, .fixed 1), (0x61, .fixed 2), (0xE0, .fixed 4),
    (0x68, .dataBlock)]
  evtCapLess1 := 1
  cmdCapLess1 := 1
  handlerWLess1 := 31
  contextWLess1 := 31

/-- An entry nothing reads (R27). -/
def noEntry : Entry := ⟨0, 0, 0⟩

/-- A created instance (R150), nothing registered. -/
def live : State :=
  { State.reset with cfg := ts, life := .live, evtTab := [noEntry, noEntry], cmdTab := [noEntry, noEntry] }

/-- Handlers for 0x61 and 0x62, none for events. -/
def handled : State := { live with cmdCount := 2, cmdTab := [⟨0x61, 3, 0x30⟩, ⟨0x62, 2, 0x20⟩] }

/-- A FEED of `d` standing at index `i`, the event of that byte answered. -/
def feeding (d : List Byte) (i : Half) (s : State) : State :=
  { s with busy := true, feedLen := BitVec.ofNat 16 d.length, feedIdx := i, chunk := d, phase := .action }

/-- Accumulating(op, p.length) with payload `p` (R32). -/
def accumulating (op : Byte) (p : List Byte) (s : State) : State :=
  { s with curValid := true, curOp := op, fill := Fin.ofNat 12 p.length
           acc := p.zipIdx.foldl (fun a x => a.setIfInBounds x.2 x.1) s.acc }

def nextOf : Result → Option State
  | .next s => some s
  | .fault _ => none
  | .refused _ => none

def refusalOf : Result → Option Refusal
  | .next _ => none
  | .fault _ => none
  | .refused r => some r

def faultOf : Result → Option Fault
  | .next _ => none
  | .fault f => some f
  | .refused _ => none

/-- A field of the next state. -/
def see {α : Type} (f : State → α) (r : Result) : Option α := (nextOf r).map f

/-! ### WellFormed: one ill-formed term for each check -/

theorem test_wf_refuses_wide_handler : (Instr.regEvent 1 0x100000000 0).wf ts = false := by decide
theorem test_wf_refuses_wide_context : (Instr.regEvent 1 0 0x100000000).wf ts = false := by decide
theorem test_wf_refuses_wide_command_handler : (Instr.regCommand 1 0x100000000 0).wf ts = false := by decide
theorem test_wf_refuses_wide_command_context : (Instr.regCommand 1 0 0x100000000).wf ts = false := by decide
theorem test_wf_refuses_feed_count : (Instr.feed 2 [0x62]).wf ts = false := by decide
theorem test_wf_refuses_illegal_with_op7 : (Instr.illegalRsv 7 1).wf ts = false := by decide
theorem test_wf_refuses_illegal_without_rsv : (Instr.illegalRsv 1 0).wf ts = false := by decide
theorem test_wf_refuses_fixed0_class : (Instr.streamFixed0 0x61).wf ts = false := by decide
theorem test_wf_refuses_fixedN_class : (Instr.streamFixedN 0x62).wf ts = false := by decide
theorem test_wf_refuses_fixedN_67 : (Instr.streamFixedN 0x67).wf ts = false := by decide
theorem test_wf_refuses_invalid_class : (Instr.streamInvalid 0x62).wf ts = false := by decide
theorem test_wf_refuses_dataBlock_class : (Instr.streamDataBlock 0x62).wf ts = false := by decide
theorem test_wf_accepts : (Instr.regEvent 1 0xFFFFFFFF 9).wf ts = true ∧ (Instr.feed 1 [0x62]).wf ts = true ∧
    (Instr.streamFixedN 0x61).wf ts = true := by decide

/-! ### Decoding: words written out from R71, R72, R75 and spec/95_test_vectors.md, bytes from TS -/

theorem test_decode_create : decodeRequest ts ⟨0x1234AB00, 0, 0, []⟩ = .create := by decide
theorem test_decode_reset : decodeRequest ts ⟨0x00000001, 0, 0, []⟩ = .reset := by decide
theorem test_decode_destroy : decodeRequest ts ⟨0x00000002, 0, 0, []⟩ = .destroy := by decide
theorem test_decode_regEvent : decodeRequest ts ⟨0x00000103, 1, 0x10, []⟩ = .regEvent 0x01 1 0x10 := by decide
theorem test_decode_regCommand : decodeRequest ts ⟨0x00006704, 4, 0x40, []⟩ = .regCommand 0x67 4 0x40 := by decide
theorem test_decode_handler_wires :
    decodeRequest ts ⟨0x00000103, 0x500000007, 0, []⟩ = .regEvent 0x01 7 0 := by decide
theorem test_decode_feed : decodeRequest ts ⟨0x00030005, 0, 0, [0x61, 0x12, 0x34]⟩ = .feed 3 [0x61, 0x12, 0x34] := by
  decide
theorem test_decode_statusRead : decodeRequest ts ⟨0xFFFF0406, 0, 0, []⟩ = .statusRead 0x04 := by decide
theorem test_decode_reservedOp7 : decodeRequest ts ⟨0x0000000F, 0, 0, []⟩ = .reservedOp7 1 := by decide
theorem test_decode_illegalRsv : decodeRequest ts ⟨0x0000010B, 1, 0, []⟩ = .illegalRsv 3 1 := by decide
theorem test_decode_67 : decodeOpcode ts 0x67 = .stream67Fixed11 := by decide
theorem test_decode_fixed0 : decodeOpcode ts 0x62 = .streamFixed0 0x62 := by decide
theorem test_decode_fixedN : decodeOpcode ts 0xE0 = .streamFixedN 0xE0 := by decide
theorem test_decode_invalid : decodeOpcode ts 0x00 = .streamInvalid 0x00 := by decide
theorem test_decode_dataBlock : decodeOpcode ts 0x68 = .streamDataBlock 0x68 := by decide
/-- V41.7: a payload byte is not classified. -/
theorem test_decode_payload : (decodeStream ts (.accumulating 0x61 1) 0x62).toOption = some (.streamPayloadByte 0x62) := by
  decide
theorem test_decode_pending : (decodeStream ts (.accumulating 0x61 2) 0x34).toOption = some (.streamPendingByte 0x34) := by
  decide
theorem test_decode_rejects_lenUndefined :
    decodeStream ts (.accumulating 0x68 0) 0x00 = .error .lenUndefined := by rfl
theorem test_decode_rejects_fillBeyondLen :
    decodeStream ts (.accumulating 0x61 3) 0x00 = .error .fillBeyondLen := by rfl
theorem test_encode_feed : encode (.feed 12 (List.replicate 12 0)) =
    .request ⟨0x000C0005, 0, 0, List.replicate 12 0⟩ := by decide
/-- R79: Fixed(11) is 0x1B, DataBlock 0x20. -/
theorem test_romEntry : romEntry (.fixed 11) = 0x1B ∧ romEntry .dataBlock = 0x20 ∧ romEntry .invalid = 0x00 := by
  decide
theorem test_table_word_67 : decodeTableWord 8 0x67 = some .stream67Fixed11 := by decide
theorem test_table_word_regEvent : decodeTableWord 8 3 = some (.regEvent 0 0 0) := by decide
theorem test_fetch_word_67 :
    see State.curOp (step (State.reset.withFetchWord 8 0x67)) = some 0x67 := by decide
theorem test_fetch_word_create : see State.life (step (State.reset.withFetchWord 8 0)) = some .live := by decide
theorem test_fetch_word_regEvent :
    see (fun t => (t.evtCount, t.out)) (step (State.reset.withFetchWord 8 3)) = some (1, [.response 0]) := by decide

/-! ### One step of each operation -/

/-- V42.2, V42.5: CREATE in Live empties the registry. -/
theorem test_create : see (fun t => (t.life, t.cmdCount, t.out)) (exec .create handled) =
    some (.live, 0, [.response 0x00000000]) := by decide
/-- R151's example. -/
theorem test_reset : see (fun t => (t.curValid, t.fill, t.feedsDone, t.cmdCount))
    (exec .reset (accumulating 0x67 [1, 2, 3] { handled with feedsDone := 5 })) = some (false, 0, 0, 2) := by decide
/-- V42.4. -/
theorem test_destroy : see (fun t => (t.life, t.evtCount, t.cmdCount, t.out)) (exec .destroy handled) =
    some (.uninit, 0, 0, [.response 0x00000000]) := by decide
theorem test_destroy_uninit : refusalOf (exec .destroy State.reset) = some .uninit := by decide
/-- R100's example. -/
theorem test_regEvent : see (fun t => (t.evtSeq, t.evtCount)) (exec (.regEvent 0x01 5 9) live) =
    some ([⟨0x01, 5, 9⟩], 1) := by decide
/-- V40.1. -/
theorem test_regEvent_uninit : refusalOf (exec (.regEvent 0x01 1 0) State.reset) = some .uninit := by decide
/-- V40.3: a duplicate is accepted. -/
theorem test_regCommand_duplicate :
    see (fun t => (t.cmdSeq, t.out)) (exec (.regCommand 0x61 3 0x30)
      { live with cmdCount := 1, cmdTab := [⟨0x61, 2, 0x20⟩, noEntry] }) =
    some ([⟨0x61, 2, 0x20⟩, ⟨0x61, 3, 0x30⟩], [.response 0x00000000]) := by decide
/-- V40.3: FULL. -/
theorem test_regCommand_full : see (fun t => (t.cmdCount, t.out)) (exec (.regCommand 0x62 4 0x40) handled) =
    some (2, [.response 0x00000001]) := by decide
/-- V41.14. -/
theorem test_feed_empty : see (fun t => (t.busy, t.feedsDone, t.out)) (exec (.feed 0 []) live) =
    some (false, 1, [.response 0x00000000]) := by decide
/-- V41.18. -/
theorem test_feed_mismatch : refusalOf (exec (.feed 2 [0x62]) live) = some .countMismatch := by decide
/-- V42.8. -/
theorem test_status_main :
    see State.out (exec (.statusRead 0x00)
      { feeding [0x61, 0x12, 0x34] 2 (accumulating 0x61 [0x12, 0x34] handled) with wait := .command }) =
    some [.response 0x00026117] := by decide
/-- V41.15: bytes at and above `fill` read 0x00. -/
theorem test_status_acc :
    see State.out (exec (.statusRead 0x06)
      { accumulating 0x67 [0, 1, 2, 3, 4, 5, 6, 7, 8, 9, 0xA] handled with fill := 10 }) =
    some [.response 0x00000908] := by decide
/-- R85: word 3 is the number of command entries. -/
theorem test_status_count : see State.out (exec (.statusRead 0x03) handled) = some [.response 0x00000002] := by decide
/-- V42.6. -/
theorem test_reservedOp7 : see State.out (exec (.reservedOp7 0) State.reset) = some [.response 0x80000001] := by
  decide
/-- V42.10. -/
theorem test_reservedOp7_busy :
    refusalOf (exec (.reservedOp7 0) { feeding [0x62] 0 live with wait := .event }) = some .reentry := by decide
/-- V40.9: nothing is registered. -/
theorem test_illegalRsv : see (fun t => (t.evtCount, t.out)) (exec (.illegalRsv 3 1) live) =
    some (0, [.response 0x80000001]) := by decide
/-- R159: with OP = 110 check 1 does not apply, check 2 does. -/
theorem test_illegalRsv_status_busy :
    see State.out (exec (.illegalRsv 6 1) (feeding [0x62] 0 live)) = some [.response 0x80000001] := by decide
/-- R129, R141. -/
theorem test_stream67 : see (fun t => (t.curValid, t.curOp, t.fill, t.feedIdx))
    (exec .stream67Fixed11 (feeding [0x67, 0x01] 0 live)) = some (true, 0x67, 0, 1) := by decide
/-- V41.1. -/
theorem test_fixed0 : see (fun t => (t.wait, t.out)) (exec (.streamFixed0 0x62) (feeding [0x62] 0 handled)) =
    some (.command, [.dispatch ⟨.command, 0x62, 2, 0x20, 0, []⟩]) := by decide
/-- V40.6. -/
theorem test_fixed0_no_match : see State.out (exec (.streamFixed0 0x62) (feeding [0x62] 0 live)) =
    some [.response 0x00000001] := by decide
/-- V41.24. -/
theorem test_fixedN : see (fun t => (t.curOp, t.fill, t.out)) (exec (.streamFixedN 0xE0) (feeding [0xE0] 0 live)) =
    some (0xE0, 0, [.response 0x00000001]) := by decide
/-- V41.5. -/
theorem test_invalid : see State.out (exec (.streamInvalid 0x00) (feeding [0x00, 0x62] 0 live)) =
    some [.report ⟨0x01, 0x00, 0⟩] := by decide
/-- V41.16. -/
theorem test_dataBlock :
    see State.out (exec (.streamDataBlock 0x68) (feeding [0x61, 0x12, 0x34, 0x62, 0x00, 0x68] 5 live)) =
    some [.report ⟨0x02, 0x68, 5⟩, .response 0x00000006] := by decide
/-- V41.2. -/
theorem test_payload_completes :
    see (fun t => (t.fill, t.out)) (exec (.streamPayloadByte 0x34)
      (feeding [0x61, 0x12, 0x34] 2 (accumulating 0x61 [0x12] handled))) =
    some (2, [.dispatch ⟨.command, 0x61, 3, 0x30, 2, [0x12, 0x34]⟩]) := by decide
/-- V41.3. -/
theorem test_payload_partial :
    see (fun t => (t.fill, t.payload, t.out)) (exec (.streamPayloadByte 0x12)
      (feeding [0x61, 0x12] 1 (accumulating 0x61 [] handled))) =
    some (1, [0x12], [.response 0x00000002]) := by decide
/-- V41.12. -/
theorem test_pending :
    see (fun t => (t.fill, t.curOp, t.out)) (exec (.streamPendingByte 0x34)
      (feeding [0x34] 0 (accumulating 0x61 [0x12, 0x34] handled))) =
    some (2, 0x61, [.response 0x80000000]) := by decide
/-- V41.11: a completion failure. -/
theorem test_completion_failure :
    see (fun t => (t.fill, t.feedsDone, t.out))
      (step { feeding [0x61, 0x12, 0x34, 0x62] 2 (accumulating 0x61 [0x12, 0x34] handled) with
        wait := .command, agent := [.answer .fail] }) =
    some (2, 0, [.response 0xFFFFFFFD]) := by decide +kernel
/-- V42.9, V41.1: the event dispatch of byte 0. -/
theorem test_event_dispatch :
    see (fun t => (t.wait, t.out))
      (step { feeding [0x62] 0 live with phase := .event, evtCount := 1, evtTab := [⟨0x01, 1, 0x10⟩, noEntry] }) =
    some (.event, [.dispatch ⟨.event, 0x01, 1, 0x10, 0, []⟩]) := by decide
theorem test_fault_accOverflow :
    faultOf (exec (.streamPayloadByte 0) { live with fill := 11 }) = some .accOverflow := by decide
theorem test_fault_chunkOverrun : faultOf (step (feeding [] 0 live)) = some .chunkOverrun := by decide

/-! ### Witnesses: the hypotheses of each statement, met together -/

theorem wit_DecodeInvertsEncode :
    ((Instr.regEvent 0xFF 0xFFFFFFFF 0).wf ts = true ∧ (Instr.regEvent 0xFF 0xFFFFFFFF 0).selectedIn ts .idle = true) ∧
    ((Instr.streamPayloadByte 0xFF).wf ts = true ∧
      (Instr.streamPayloadByte 0xFF).selectedIn ts (.accumulating 0x61 1) = true) ∧
    ((Instr.streamPendingByte 0).wf ts = true ∧
      (Instr.streamPendingByte 0).selectedIn ts (.accumulating 0x61 2) = true) := by decide

theorem wit_DecodedOperationIsCanonical :
    decode ts (.accumulating 0x61 1) (.byte 0x62) = .ok (.streamPayloadByte 0x62) ∧
    decode ts .idle (.request ⟨0x00020005, 0, 0, [0]⟩) = .ok (.feed 2 [0]) := ⟨rfl, rfl⟩

theorem wit_ConfigurationAcceptance :
    (Config.build ((List.replicate 256 (0x00 : Byte)).set 0x67 0x1B) 1 1 1 64).isSome = true ∧
    Config.build (List.replicate 256 (0x00 : Byte)) 1 1 1 64 = none := by
  constructor <;> decide +kernel

theorem wit_StepRunsTheDecodedOperation :
    (let s := { live with inbox := [⟨0x00000001, 0, 0, []⟩] }
     s.wait = .none ∧ s.busy = false ∧ s.inbox = ⟨0x00000001, 0, 0, []⟩ :: []) ∧
    (let s := { feeding [0x62] 0 live with wait := .event, agent := [.request ⟨0x00000006, 0, 0, []⟩] }
     s.wait ≠ .none ∧ s.agent = .request ⟨0x00000006, 0, 0, []⟩ :: []) ∧
    (let s := feeding [0x62] 0 live
     s.wait = .none ∧ s.busy = true ∧ s.phase = .action ∧ s.chunk[s.feedIdx.toNat]? = some 0x62 ∧
     (decodeStream s.cfg s.decState 0x62).toOption = some (.streamFixed0 0x62)) := by decide

theorem wit_NothingHappensWithoutInput :
    (live.wait = .none ∧ live.busy = false ∧ live.inbox = []) ∧
    (let s := { feeding [0x62] 0 live with wait := .event }
     s.wait ≠ .none ∧ s.agent = []) := by decide

theorem wit_EventDispatchComesFirst :
    (let s := { feeding [0x62] 0 live with phase := .event }
     s.wait = .none ∧ s.busy = true ∧ s.phase = .event ∧ ∀ e ∈ s.evtTab.take s.evtCount, e.key ≠ 0x01) ∧
    (let s := { feeding [0x62] 0 live with phase := .event, evtCount := 2, evtTab := [⟨0x02, 7, 0⟩, ⟨0x01, 1, 0⟩] }
     s.wait = .none ∧ s.busy = true ∧ s.phase = .event ∧ (s.evtTab.take s.evtCount)[1]? = some ⟨0x01, 1, 0⟩ ∧
     ∀ i < 1, ∀ f ∈ (s.evtTab.take s.evtCount)[i]?, f.key ≠ 0x01) := by decide

theorem wit_FirstMatchingEntryIsDispatched :
    let s := { live with cmdCount := 2, cmdTab := [⟨0x62, 2, 0⟩, ⟨0x61, 3, 0⟩] }
    (s.seqOf .command)[1]? = some ⟨0x61, 3, 0⟩ ∧ ∀ i < 1, ∀ f ∈ (s.seqOf .command)[i]?, f.key ≠ 0x61 := by decide

theorem wit_NoMatchIsOk : ∀ e ∈ handled.seqOf .command, e.key ≠ 0x50 := by decide

/-- EventOkGoesOnToTheByte and HandlerFailureAborts. -/
theorem wit_answers :
    (let s := { feeding [0x62] 0 live with phase := .event, wait := .event, agent := [.answer .ok] }
     s.wait = .event ∧ s.agent = .answer .ok :: []) ∧
    (let s := { feeding [0x62] 0 live with wait := .command, agent := [.answer .fail] }
     s.wait ≠ .none ∧ s.agent = .answer .fail :: []) := by decide

theorem wit_CommandOkReturnsToIdle :
    (let s := { feeding [0x62, 0x62] 0 live with wait := .command, agent := [.answer .ok] }
     s.wait = .command ∧ s.agent = .answer .ok :: [] ∧ s.curValid = false ∧ s.fill = 0 ∧ s.curOp = 0 ∧
     s.feedIdx.toNat + 1 < s.feedLen.toNat) ∧
    (let s := { feeding [0x61, 1, 2] 2 (accumulating 0x61 [1, 2] live) with wait := .command, agent := [.answer .ok] }
     s.wait = .command ∧ s.agent = .answer .ok :: [] ∧ s.curValid = true ∧
     s.feedLen.toNat ≤ s.feedIdx.toNat + 1) := by decide

theorem wit_FixedZeroDispatchesAtOnce :
    (let s := feeding [0x62] 0 handled
     s.curValid = false ∧ s.cmdSeq[1]? = some ⟨0x62, 2, 0x20⟩ ∧ ∀ i < 1, ∀ f ∈ s.cmdSeq[i]?, f.key ≠ 0x62) ∧
    (let s := feeding [0x66, 0x66] 0 handled
     s.curValid = false ∧ (∀ e ∈ s.cmdSeq, e.key ≠ 0x66) ∧ s.feedIdx.toNat + 1 < s.feedLen.toNat) ∧
    (let s := feeding [0x66, 0x66] 1 handled
     s.curValid = false ∧ (∀ e ∈ s.cmdSeq, e.key ≠ 0x66) ∧ s.feedLen.toNat ≤ s.feedIdx.toNat + 1) := by decide

/-- UnknownAndDataBlockAreReportedAndSkipped and OpcodeStartsAccumulating, going on and ending. -/
theorem wit_byte_goes_on_or_ends :
    (let s := feeding [0x00, 0x00] 0 live
     s.feedIdx.toNat + 1 < s.feedLen.toNat) ∧
    (let s := feeding [0x00, 0x00] 1 live
     s.feedLen.toNat ≤ s.feedIdx.toNat + 1) := by decide

theorem wit_PayloadByteIsAppended :
    (let s := feeding [0xE0, 1, 2, 3, 4] 3 (accumulating 0xE0 [1, 2] handled)
     s.curValid = true ∧ s.cfg.lenOf s.curOp = some 4 ∧ s.fill < 4 ∧ s.fill + 1 < 4 ∧
     s.feedIdx.toNat + 1 < s.feedLen.toNat) ∧
    (let s := feeding [1] 0 (accumulating 0xE0 [1, 2] handled)
     s.curValid = true ∧ s.cfg.lenOf s.curOp = some 4 ∧ s.fill + 1 < 4 ∧ s.feedLen.toNat ≤ s.feedIdx.toNat + 1) ∧
    (let s := feeding [0x61, 1, 2] 2 (accumulating 0x61 [1] handled)
     s.curValid = true ∧ s.cfg.lenOf s.curOp = some 2 ∧ s.fill + 1 = 2 ∧ s.cmdSeq[0]? = some ⟨0x61, 3, 0x30⟩) ∧
    (let s := feeding [0x50, 1, 0x50] 1 (accumulating 0x50 [] handled)
     s.curValid = true ∧ s.cfg.lenOf s.curOp = some 1 ∧ s.fill + 1 = 1 ∧ (∀ e ∈ s.cmdSeq, e.key ≠ s.curOp) ∧
     s.feedIdx.toNat + 1 < s.feedLen.toNat) ∧
    (let s := feeding [0x50, 1] 1 (accumulating 0x50 [] handled)
     s.curValid = true ∧ s.cfg.lenOf s.curOp = some 1 ∧ s.fill + 1 = 1 ∧ (∀ e ∈ s.cmdSeq, e.key ≠ s.curOp) ∧
     s.feedLen.toNat ≤ s.feedIdx.toNat + 1) := by decide

/-- PayloadBytesAreNotClassified and IdleByteIsClassified, each class and decoder state. -/
theorem wit_decoder_states :
    (accumulating 0x61 [1, 2] live).DecoderOk ∧ (accumulating 0x61 [1, 2] live).curValid = true ∧
    (accumulating 0x61 [1] live).DecoderOk ∧ live.curValid = false ∧ live.cfg.schema 0x00 = .invalid ∧
    live.cfg.schema 0x68 = .dataBlock ∧ live.cfg.schema 0x62 = .fixed 0 ∧ live.cfg.schema 0x67 = .fixed 11 ∧
    live.cfg.schema 0x50 = .fixed 1 := by decide

/-- CreateInitializes, ResetClearsTheDecoder, DestroyTearsDown, RegistrationAppendsOrIsFull, FeedBegins,
EmptyChunkSucceeds, StatusReadInUninit, IllegalRequestsAnswerIllegal and CreateOverwritesTheFieldsOfR20. -/
theorem wit_host_operations :
    (live.busy = false ∧ live.life = .live ∧ live.evtCount ≠ live.cfg.evtCap ∧ live.cmdCount ≠ live.cfg.cmdCap) ∧
    (let s := { handled with evtCount := 2, evtTab := [⟨1, 0, 0⟩, ⟨1, 0, 0⟩] }
     s.busy = false ∧ s.life = .live ∧ s.evtCount = s.cfg.evtCap ∧ s.cmdCount = s.cfg.cmdCap) ∧
    ([0x62] : List Byte).length = (1 : Half).toNat ∧ (1 : Half) ≠ 0 ∧
    State.reset.life = .uninit ∧ State.reset.busy = false := by decide

theorem wit_StatusReadShowsTheState :
    (let s := feeding [0x62] 0 live
     s.life = .live ∧ s.busy = true ∧ s.evtCount < 2 ^ 32 ∧ s.cmdCount < 2 ^ 32 ∧ s.fill ≤ 11) ∧
    (live.life = .live ∧ live.busy = false) ∧ (0x04 : Byte).toNat = 4 + 0 ∧ (0x07 : Byte).toNat = 4 + 3 ∧
    9 ≤ (0x09 : Byte).toNat ∧ 9 ≤ (0xFF : Byte).toNat := by decide

theorem wit_RequestChecksInOrder :
    (let s := { feeding [0x62] 0 live with wait := .event }
     s.busy = true ∧ opField 0x00000007 ≠ 6) ∧
    (let s := { feeding [0x62] 0 live with wait := .event }
     ¬ (s.busy = true ∧ opField 0x0000000E ≠ 6) ∧ rsvField 0x0000000E ≠ 0) ∧
    (State.reset.life = .uninit ∧ State.reset.busy = false ∧ opField 0x00000005 ≠ 0 ∧ opField 0x00000005 ≠ 6 ∧
      opField 0x00000005 ≠ 7 ∧ rsvField 0x00000005 = 0) ∧
    (live.life = .live ∧ live.busy = false ∧ opField 0x00020005 = 5 ∧ rsvField 0x00020005 = 0 ∧
      ([0] : List Byte).length ≠ (lenField 0x00020005).toNat) ∧
    (opField 0x00010005 = 5 ∧ rsvField 0x00010005 = 0 ∧ ([0] : List Byte).length = (lenField 0x00010005).toNat) := by
  decide

theorem wit_EntriesKeepTheirWidths : handled.EntriesFit ∧ (nextOf (step (feeding [0x62] 0 handled))).isSome = true := by
  decide

/-- FeedResultWords, its first clause at both ends. -/
theorem wit_FeedResultWords : (0 : Half).toNat ≤ 65534 ∧ (65534 : Half).toNat ≤ 65534 := by decide

/-- UnusedFieldsAreIgnored: an operation of each clause. -/
theorem wit_UnusedFieldsAreIgnored : ((5 : BitVec 3) = 0 ∨ (5 : BitVec 3) = 1 ∨ (5 : BitVec 3) = 2 ∨ (5 : BitVec 3) = 5) ∧
    (3 : BitVec 3) ≠ 5 := by decide

/-- RomEntryEncoding: a rejected entry in a ROM. -/
theorem wit_RomEntryEncoding : (∃ e ∈ (List.replicate 256 (0x00 : Byte)).set 0 0x1C, romClass e = none) ∧
    romClass 0x1B = some (.fixed 11) := ⟨⟨0x1C, by decide +kernel, by decide⟩, by decide⟩

/-- A step from a state that meets the invariant (EveryStepKeepsTheInvariant, NoStepFaults, SentRecordsAreWellFormed). -/
theorem wit_invariant_step :
    (feeding [0x61, 1, 2] 2 (accumulating 0x61 [1] handled)).Inv ∧
    (nextOf (step (feeding [0x61, 1, 2] 2 (accumulating 0x61 [1] handled)))).isSome = true := by decide

/-- The three ways a FEED ends (FeedEndsWithOneResult), and a running FEED (RunningFeedIsUndisturbed). -/
theorem wit_FeedEndsWithOneResult :
    (let s := feeding [0x00] 0 live
     s.Inv ∧ s.busy = true ∧ see State.busy (step s) = some false) ∧
    (let s := { feeding [0x62] 0 handled with wait := .command, agent := [.answer .fail] }
     s.Inv ∧ s.busy = true ∧ see State.busy (step s) = some false) ∧
    (let s := feeding [0x34] 0 (accumulating 0x61 [1, 2] handled)
     s.Inv ∧ s.busy = true ∧ see State.busy (step s) = some false) := by
  refine ⟨⟨?_, ?_, ?_⟩, ⟨?_, ?_, ?_⟩, ?_, ?_, ?_⟩ <;> decide

theorem wit_StreamOperationsFrame :
    (nextOf (exec (.streamPayloadByte 7) (feeding [7] 0 (accumulating 0x61 [1] handled)))).isSome = true ∧
    (nextOf (exec .stream67Fixed11 (feeding [0x67] 0 live))).isSome = true := by decide

/-- RegistryIsAppendOnly, OnlyCreateAndDestroyWriteLife and ConfigurationNeverChanges. -/
theorem wit_RegistryIsAppendOnly :
    (nextOf (exec (.regEvent 1 2 3) live)).isSome = true ∧ (nextOf (exec .create live)).isSome = true ∧
    (nextOf (step live)).isSome = true := by decide

theorem wit_StaleBytesAreUnobservable :
    let s := feeding [0x34] 0 (accumulating 0x61 [0x12] handled)
    s.SameButStale { s with acc := s.acc.setIfInBounds 5 0xFF } ∧ (nextOf (step s)).isSome = true := by
  refine ⟨⟨rfl, ?_⟩, by decide⟩
  intro k h
  have hk : k = 0 := Nat.lt_one_iff.mp h
  subst hk
  decide

theorem wit_PendingByteEndsWithSentinel : (feeding [0x34] 0 (accumulating 0x61 [1, 2] handled)).wait = .none := by
  decide

/-- The states the statements about whole FEEDs start from. -/
theorem wit_whole_feeds :
    (handled.Inv ∧ handled.life = .live ∧ handled.busy = false ∧ ¬ handled.Pending ∧ handled.curValid = false) ∧
    (live.Inv ∧ live.evtCount = 0 ∧ live.cmdCount = 0 ∧ ¬ live.Pending) ∧
    ([0x61, 0x12, 0x34] : List Byte).length < 65536 ∧
    2 * ([0x61, 0x12, 0x34] : List Byte).length ≤ (List.replicate 6 Answer.ok).length ∧
    handled.cfg.lenOf 0x61 = some ([0x12, 0x34] : List Byte).length ∧ handled.lookup .event 0x01 = none ∧
    handled.lookup .command 0x61 = some ⟨0x61, 3, 0x30⟩ ∧
    ([[0x61, 0x12], [], [0x34]] : List (List Byte)).flatten = [[0x61, 0x12, 0x34]].flatten := by
  refine ⟨⟨?_, ?_, ?_, ?_, ?_⟩, ⟨?_, ?_, ?_, ?_⟩, ?_, ?_, ?_, ?_, ?_, ?_⟩ <;> decide

end Sys2Proof.Tests
end

/-! What a step does to the configuration, to the callback tables and to the records sent: said once for every operation
and every agent (R12, R21, R27, R28, R107). -/

namespace Sys2Proof.Machine

/-! ### Steps that write neither table -/

/-- From `s` to `t` the configuration and both tables with their counts are kept, and every dispatch record sent is made
of an entry of the sequence its kind scans (R21, R28, R107). -/
structure KeepsRegistry (s t : State) : Prop where
  cfg : t.cfg = s.cfg
  evtTab : t.evtTab = s.evtTab
  evtCount : t.evtCount = s.evtCount
  cmdTab : t.cmdTab = s.cmdTab
  cmdCount : t.cmdCount = s.cmdCount
  sent : ∃ new, t.out = s.out ++ new ∧
    ∀ r ∈ dispatches new, ∃ k key p, ∃ e ∈ s.seqOf k, r = dispatchRecord k key p e

@[simp] theorem dispatches_append (l l' : List Output) : dispatches (l ++ l') = dispatches l ++ dispatches l' :=
  List.filterMap_append

namespace KeepsRegistry

variable {s t u : State}

theorem evtSeq (h : KeepsRegistry s t) : t.evtSeq = s.evtSeq := by
  rw [State.evtSeq, State.evtSeq, h.evtTab, h.evtCount]

theorem cmdSeq (h : KeepsRegistry s t) : t.cmdSeq = s.cmdSeq := by
  rw [State.cmdSeq, State.cmdSeq, h.cmdTab, h.cmdCount]

theorem seqOf (h : KeepsRegistry s t) (k : Kind) : t.seqOf k = s.seqOf k := by
  cases k with
  | event => exact h.evtSeq
  | command => exact h.cmdSeq

/-- An update that sends no dispatch record. -/
theorem of_no_dispatch {new : List Output} (hcfg : t.cfg = s.cfg) (hevtTab : t.evtTab = s.evtTab)
    (hevtCount : t.evtCount = s.evtCount) (hcmdTab : t.cmdTab = s.cmdTab) (hcmdCount : t.cmdCount = s.cmdCount)
    (hout : t.out = s.out ++ new) (hnew : dispatches new = []) : KeepsRegistry s t :=
  ⟨hcfg, hevtTab, hevtCount, hcmdTab, hcmdCount, new, hout, by simp [hnew]⟩

/-- An update that sends nothing. -/
theorem of_silent (hcfg : t.cfg = s.cfg) (hevtTab : t.evtTab = s.evtTab) (hevtCount : t.evtCount = s.evtCount)
    (hcmdTab : t.cmdTab = s.cmdTab) (hcmdCount : t.cmdCount = s.cmdCount) (hout : t.out = s.out) :
    KeepsRegistry s t :=
  of_no_dispatch (new := []) hcfg hevtTab hevtCount hcmdTab hcmdCount (by simp [hout]) rfl

theorem refl (s : State) : KeepsRegistry s s := of_silent rfl rfl rfl rfl rfl rfl

theorem trans (h : KeepsRegistry s t) (h' : KeepsRegistry t u) : KeepsRegistry s u := by
  obtain ⟨new, hout, hnew⟩ := h.sent
  obtain ⟨new', hout', hnew'⟩ := h'.sent
  refine ⟨h'.cfg.trans h.cfg, h'.evtTab.trans h.evtTab, h'.evtCount.trans h.evtCount, h'.cmdTab.trans h.cmdTab,
    h'.cmdCount.trans h.cmdCount, new ++ new', by rw [hout', hout, List.append_assoc], fun r hr => ?_⟩
  rw [dispatches_append, List.mem_append] at hr
  rcases hr with hr | hr
  · exact hnew r hr
  · obtain ⟨k, key, p, e, he, rfl⟩ := hnew' r hr
    exact ⟨k, key, p, e, h.seqOf k ▸ he, rfl⟩

end KeepsRegistry

section
variable (s : State)

theorem respond_keepsRegistry (w : Word) : KeepsRegistry s (respond w s) :=
  .of_no_dispatch rfl rfl rfl rfl rfl rfl rfl

theorem report_keepsRegistry (code b : Byte) : KeepsRegistry s (report code b s) :=
  .of_no_dispatch rfl rfl rfl rfl rfl rfl rfl

theorem finishFeed_keepsRegistry : KeepsRegistry s (finishFeed s) :=
  .of_no_dispatch rfl rfl rfl rfl rfl rfl rfl

theorem abortFeed_keepsRegistry (w : Word) : KeepsRegistry s (abortFeed w s) :=
  .of_no_dispatch rfl rfl rfl rfl rfl rfl rfl

theorem clearCommand_keepsRegistry : KeepsRegistry s (clearCommand s) :=
  .of_silent rfl rfl rfl rfl rfl rfl

theorem startCommand_keepsRegistry (op : Byte) : KeepsRegistry s (startCommand op s) :=
  .of_silent rfl rfl rfl rfl rfl rfl

theorem appendByte_keepsRegistry (b : Byte) : KeepsRegistry s (appendByte b s) :=
  .of_silent rfl rfl rfl rfl rfl rfl

theorem eventOk_keepsRegistry : KeepsRegistry s (eventOk s) :=
  .of_silent rfl rfl rfl rfl rfl rfl

theorem nextByte_keepsRegistry : KeepsRegistry s (nextByte s) := by
  rcases nextByte_cases s with ⟨-, h⟩ | ⟨-, h⟩
  · rw [h]
    exact .of_silent rfl rfl rfl rfl rfl rfl
  · rw [h]
    exact finishFeed_keepsRegistry s

theorem commandOk_keepsRegistry : KeepsRegistry s (commandOk s) := by
  rcases commandOk_cases s with ⟨-, h⟩ | ⟨-, h⟩
  · rw [h]
    exact (clearCommand_keepsRegistry s).trans (nextByte_keepsRegistry _)
  · rw [h]
    exact nextByte_keepsRegistry s

/-- A matched dispatch sends the record of the entry found, an unmatched one what the caller does with Ok. -/
theorem dispatch_keepsRegistry (k : Kind) (key : Byte) (p : List Byte) {onOk : State → State}
    (hok : ∀ s, KeepsRegistry s (onOk s)) : KeepsRegistry s (dispatch k key p onOk s) := by
  rcases dispatch_cases k key p onOk s with ⟨e, he, h⟩ | ⟨-, h⟩
  · rw [h]
    refine ⟨rfl, rfl, rfl, rfl, rfl, [.dispatch (dispatchRecord k key p e)], rfl, fun r hr => ?_⟩
    obtain rfl : r = dispatchRecord k key p e := by simpa [dispatches] using hr
    exact ⟨k, key, p, e, (lookup_some he).1, rfl⟩
  · rw [h]
    exact hok s

theorem receiveAnswer_keepsRegistry (a : Answer) : KeepsRegistry s (receiveAnswer a s) := by
  have hwait : KeepsRegistry s { s with wait := .none } := .of_silent rfl rfl rfl rfl rfl rfl
  rcases receiveAnswer_cases a s with ⟨-, h⟩ | ⟨-, -, h⟩ | ⟨-, -, h⟩ | ⟨-, -, h⟩
  · rw [h]
    exact abortFeed_keepsRegistry s _
  · rw [h]
    exact hwait.trans (eventOk_keepsRegistry _)
  · rw [h]
    exact hwait.trans (commandOk_keepsRegistry _)
  · rw [h]
    exact .refl s

end

/-! ### What an operation does to the registry -/

section
variable {s t : State}

/-- From `s` to `t` both sequences are emptied, the tables hold free values, and one response is sent (R20, R150,
R153). -/
def EmptiesRegistry (s t : State) : Prop :=
  t.cfg = s.cfg ∧ t.evtTab = freeTab s.cfg s.draws false s.cfg.evtCap ∧ t.evtCount = 0 ∧
    t.cmdTab = freeTab s.cfg s.draws true s.cfg.cmdCap ∧ t.cmdCount = 0 ∧ t.out = s.out ++ [.response respOk]

theorem execCreate_emptiesRegistry (h : execCreate s = .next t) : EmptiesRegistry s t := by
  obtain ⟨-, h⟩ := checkBusy_next h
  cases h
  exact ⟨rfl, rfl, rfl, rfl, rfl, rfl⟩

theorem execDestroy_emptiesRegistry (h : execDestroy s = .next t) : EmptiesRegistry s t := by
  obtain ⟨-, -, h⟩ := checkLive_next h
  cases h
  exact ⟨rfl, rfl, rfl, rfl, rfl, rfl⟩

theorem execReset_keepsRegistry (h : execReset s = .next t) : KeepsRegistry s t := by
  obtain ⟨-, -, h⟩ := checkLive_next h
  cases h
  exact .of_no_dispatch rfl rfl rfl rfl rfl rfl rfl

/-- REG_EVENT answers FULL and keeps the registry, or appends (R100, R102). -/
theorem execRegEvent_cases {key : Byte} {handler context : Wide} (h : execRegEvent key handler context s = .next t) :
    KeepsRegistry s t ∨ t = respond respOk (appendEvt (entryOf key handler context) s) := by
  obtain ⟨-, -, h⟩ := checkLive_next h
  split at h <;> cases h
  · exact .inl (respond_keepsRegistry s _)
  · exact .inr rfl

/-- REG_COMMAND answers FULL and keeps the registry, or appends (R101, R102). -/
theorem execRegCommand_cases {key : Byte} {handler context : Wide}
    (h : execRegCommand key handler context s = .next t) :
    KeepsRegistry s t ∨ t = respond respOk (appendCmd (entryOf key handler context) s) := by
  obtain ⟨-, -, h⟩ := checkLive_next h
  split at h <;> cases h
  · exact .inl (respond_keepsRegistry s _)
  · exact .inr rfl

theorem execFeed_keepsRegistry {len : Half} {data : List Byte} (h : execFeed len data s = .next t) :
    KeepsRegistry s t := by
  obtain ⟨-, -, h⟩ := checkLive_next h
  split at h
  · cases h
    split
    · exact .of_no_dispatch rfl rfl rfl rfl rfl rfl rfl
    · exact .of_silent rfl rfl rfl rfl rfl rfl
  · cases h

theorem execStatusRead_keepsRegistry {sel : Byte} (h : execStatusRead sel s = .next t) : KeepsRegistry s t := by
  unfold execStatusRead at h
  split at h <;> cases h
  · exact respond_keepsRegistry s _
  · exact .of_no_dispatch rfl rfl rfl rfl rfl rfl rfl

theorem execReservedOp7_keepsRegistry (rsv : BitVec 5) (h : execReservedOp7 rsv s = .next t) :
    KeepsRegistry s t := by
  obtain ⟨-, h⟩ := checkBusy_next h
  cases h
  exact respond_keepsRegistry s _

theorem execIllegalRsv_keepsRegistry (op : BitVec 3) (rsv : BitVec 5) (h : execIllegalRsv op rsv s = .next t) :
    KeepsRegistry s t := by
  have h : Host.Outcome.next (respond respIllegal s) = (.next t : Result) := by
    unfold execIllegalRsv at h
    split at h
    · exact h
    · exact (checkBusy_next h).2
  cases h
  exact respond_keepsRegistry s _

theorem execStreamPayloadByte_keepsRegistry {b : Byte} (h : execStreamPayloadByte b s = .next t) :
    KeepsRegistry s t := by
  unfold execStreamPayloadByte at h
  split at h
  · cases h
    refine (appendByte_keepsRegistry s b).trans ?_
    split
    · exact dispatch_keepsRegistry _ _ _ _ commandOk_keepsRegistry
    · exact nextByte_keepsRegistry _
  · cases h

/-- Every operation but CREATE, DESTROY and a registration that is accepted keeps the registry (R28). -/
theorem exec_registry_cases {i : Instr} (h : exec i s = .next t) :
    KeepsRegistry s t ∨
    (∃ key handler context, i = .regEvent key handler context ∧
      t = respond respOk (appendEvt (entryOf key handler context) s)) ∨
    (∃ key handler context, i = .regCommand key handler context ∧
      t = respond respOk (appendCmd (entryOf key handler context) s)) ∨
    ((i = .create ∨ i = .destroy) ∧ EmptiesRegistry s t) := by
  cases i with
  | create => exact .inr (.inr (.inr ⟨.inl rfl, execCreate_emptiesRegistry h⟩))
  | destroy => exact .inr (.inr (.inr ⟨.inr rfl, execDestroy_emptiesRegistry h⟩))
  | regEvent key handler context =>
    exact (execRegEvent_cases h).imp_right fun ht => .inl ⟨key, handler, context, rfl, ht⟩
  | regCommand key handler context =>
    exact (execRegCommand_cases h).imp_right fun ht => .inr (.inl ⟨key, handler, context, rfl, ht⟩)
  | reset => exact .inl (execReset_keepsRegistry h)
  | feed len data => exact .inl (execFeed_keepsRegistry h)
  | statusRead sel => exact .inl (execStatusRead_keepsRegistry h)
  | reservedOp7 rsv => exact .inl (execReservedOp7_keepsRegistry rsv h)
  | illegalRsv op rsv => exact .inl (execIllegalRsv_keepsRegistry op rsv h)
  | stream67Fixed11 =>
    cases h
    exact .inl ((startCommand_keepsRegistry s _).trans (nextByte_keepsRegistry _))
  | streamFixed0 b =>
    cases h
    exact .inl (dispatch_keepsRegistry s _ _ _ commandOk_keepsRegistry)
  | streamFixedN b =>
    cases h
    exact .inl ((startCommand_keepsRegistry s b).trans (nextByte_keepsRegistry _))
  | streamInvalid b =>
    cases h
    exact .inl ((report_keepsRegistry s _ b).trans (nextByte_keepsRegistry _))
  | streamDataBlock b =>
    cases h
    exact .inl ((report_keepsRegistry s _ b).trans (nextByte_keepsRegistry _))
  | streamPayloadByte b => exact .inl (execStreamPayloadByte_keepsRegistry h)
  | streamPendingByte b =>
    cases h
    exact .inl (abortFeed_keepsRegistry s _)

theorem exec_cfg {i : Instr} (h : exec i s = .next t) : t.cfg = s.cfg := by
  rcases exec_registry_cases h with h | ⟨_, _, _, -, rfl⟩ | ⟨_, _, _, -, rfl⟩ | ⟨-, hcfg, -⟩
  · exact h.cfg
  · rfl
  · rfl
  · exact hcfg

/-! ### What a step does to the registry -/

/-- A registration's operands lie within the configured widths; any other operation has none to check (R73). -/
def OperandsFit (c : Config) : Instr → Prop
  | .regEvent key handler context => entryFits c (entryOf key handler context)
  | .regCommand key handler context => entryFits c (entryOf key handler context)
  | _ => True

theorem decodeRequest_regEvent (c : Config) {r : Request} (hop : opField r.word = 3) (hrsv : rsvField r.word = 0) :
    decodeRequest c r =
      .regEvent (keyField r.word) (lowBits c.handlerW r.handler) (lowBits c.contextW r.context) := by
  simp [decodeRequest, hop, hrsv]

theorem decodeRequest_regCommand (c : Config) {r : Request} (hop : opField r.word = 4) (hrsv : rsvField r.word = 0) :
    decodeRequest c r =
      .regCommand (keyField r.word) (lowBits c.handlerW r.handler) (lowBits c.contextW r.context) := by
  simp [decodeRequest, hop, hrsv]

/-- The sideband wires carry no more than the configured widths (R73). -/
theorem decodeRequest_operandsFit (c : Config) (r : Request) : OperandsFit c (decodeRequest c r) := by
  rcases decodeRequest_cases c r with ⟨-, hi⟩ | ⟨-, -, hi⟩ |
    ⟨hrsv, ⟨-, hi⟩ | ⟨-, hi⟩ | ⟨-, hi⟩ | ⟨hop, -⟩ | ⟨hop, -⟩ | ⟨-, hi⟩ | ⟨-, hi⟩⟩
  · exact hi ▸ trivial
  · exact hi ▸ trivial
  · exact hi ▸ trivial
  · exact hi ▸ trivial
  · exact hi ▸ trivial
  · rw [decodeRequest_regEvent c hop hrsv]
    exact ⟨lowBits_lt _ _, lowBits_lt _ _⟩
  · rw [decodeRequest_regCommand c hop hrsv]
    exact ⟨lowBits_lt _ _, lowBits_lt _ _⟩
  · exact hi ▸ trivial
  · exact hi ▸ trivial

/-- No stream byte is a registration. -/
theorem fetchStream_operandsFit {i : Instr} (h : fetchStream s = .ok i) : OperandsFit s.cfg i := by
  cases hv : s.curValid with
  | false =>
    obtain ⟨b, -, rfl⟩ := fetchStream_idle hv h
    rcases decodeOpcode_cases s.cfg b with ⟨-, hi⟩ | ⟨-, -, -, -, hi⟩ | ⟨-, hi⟩ | ⟨-, hi⟩ | ⟨-, hi⟩ <;>
      rw [hi] <;> trivial
  | true =>
    obtain ⟨b, n, -, -, ⟨-, rfl⟩ | ⟨-, rfl⟩⟩ := fetchStream_accumulating hv h <;> trivial

/-- A step keeps the registry, or runs one operation on the state with its input taken; the operands of a registration it
runs fit (R12, R28, R73). -/
theorem step_registry_cases (h : step s = .next t) :
    KeepsRegistry s t ∨ ∃ i inbox agent, OperandsFit s.cfg i ∧
      exec i { s with inbox := inbox, agent := agent } = .next t := by
  rcases step_cases s with
    ⟨-, -, ⟨-, hs⟩ | ⟨r, rest, -, hs⟩⟩ | ⟨-, ⟨-, hs⟩ | ⟨a, rest, -, hs⟩ | ⟨r, rest, -, hs⟩⟩ |
    ⟨-, -, ⟨-, hs⟩ | ⟨-, i, hi, hs⟩ | ⟨-, f, -, hs⟩⟩ <;> rw [hs] at h
  · cases h
    exact .inl (.refl s)
  · exact .inr ⟨_, rest, s.agent, decodeRequest_operandsFit s.cfg r, h⟩
  · cases h
    exact .inl (.refl s)
  · cases h
    have htaken : KeepsRegistry s { s with agent := rest } := .of_silent rfl rfl rfl rfl rfl rfl
    exact .inl (htaken.trans (receiveAnswer_keepsRegistry _ a))
  · exact .inr ⟨_, s.inbox, rest, decodeRequest_operandsFit s.cfg r, h⟩
  · cases h
    exact .inl (dispatch_keepsRegistry s _ _ _ eventOk_keepsRegistry)
  · exact .inr ⟨i, s.inbox, s.agent, fetchStream_operandsFit hi, h⟩
  · cases h

end

end Sys2Proof.Machine

/-! Proofs about the configuration channel: which ROMs, capacities and widths `Config.build` accepts (R7, R79, D32). -/

namespace Sys2Proof.Proofs.Scope

/-! ### The class list of a ROM -/

/-- A ROM's class list exists exactly when every entry has a class, and lists those classes in order. -/
theorem mapM_romClass_eq_some_iff {rom : List Byte} {classes : List OpClass} :
    rom.mapM romClass = some classes ↔ rom.map romClass = classes.map some := by
  induction rom generalizing classes with
  | nil => cases classes <;> simp
  | cons e rom ih => cases classes <;> simp [Option.bind_eq_some_iff, ← ih]

theorem exists_classes_iff (rom : List Byte) :
    (∃ classes, rom.mapM romClass = some classes) ↔ ∀ e ∈ rom, romClass e ≠ none := by
  simp only [mapM_romClass_eq_some_iff]
  constructor
  · rintro ⟨classes, h⟩ e he hn
    have hmem : romClass e ∈ classes.map some := h ▸ List.mem_map_of_mem he
    simp [hn] at hmem
  · intro h
    induction rom with
    | nil => exact ⟨[], rfl⟩
    | cons e rom ih =>
      obtain ⟨classes, hc⟩ := ih fun f hf => h f (List.mem_cons_of_mem e hf)
      obtain ⟨k, hk⟩ := Option.ne_none_iff_exists'.mp (h e List.mem_cons_self)
      exact ⟨k :: classes, by simp [hk, hc]⟩

theorem classes_length {rom : List Byte} {classes : List OpClass} (h : rom.mapM romClass = some classes) :
    classes.length = rom.length := by
  simpa using (congrArg List.length (mapM_romClass_eq_some_iff.mp h)).symm

/-- The class at an index is the class of the ROM entry at that index. -/
theorem classes_getElem? {rom : List Byte} {classes : List OpClass} (h : rom.mapM romClass = some classes) (i : Nat) :
    classes[i]? = rom[i]?.bind romClass := by
  have hi := congrArg (·[i]?) (mapM_romClass_eq_some_iff.mp h)
  cases hr : rom[i]? <;> cases hc : classes[i]? <;> simp_all

/-- 0x1B is the one entry that encodes Fixed(11) (R79). -/
theorem romClass_eq_fixed11_iff (e : Byte) : romClass e = some (.fixed 11) ↔ e = 0x1B := by
  revert e
  decide

/-- Entry 0x67 holds the class R8 asks for exactly when it is the byte 0x1B. -/
theorem classes_67_iff {rom : List Byte} {classes : List OpClass} (h : rom.mapM romClass = some classes) :
    classes[0x67]? = some (.fixed 11) ↔ rom[0x67]? = some 0x1B := by
  rw [classes_getElem? h, Option.bind_eq_some_iff]
  simp [romClass_eq_fixed11_iff]

/-! ### Reading the table an accepted ROM is stored as -/

/-- Looking up the key at an index, the keys being distinct, finds the value at that index. -/
theorem lookup_zip_of_getElem? {keys : List Byte} (hnd : keys.Nodup) (vals : List OpClass) {i : Nat} {k : Byte}
    (hk : keys[i]? = some k) : (keys.zip vals).lookup k = vals[i]? := by
  induction keys generalizing vals i with
  | nil => simp at hk
  | cons a keys ih =>
    obtain ⟨ha, hnd⟩ := List.nodup_cons.mp hnd
    cases vals with
    | nil => simp
    | cons v vals =>
      cases i with
      | zero =>
        obtain rfl : a = k := by simpa using hk
        simp
      | succ i =>
        have hk : keys[i]? = some k := by simpa using hk
        have hne : k ≠ a := fun h => ha (h ▸ List.mem_of_getElem? hk)
        simpa [List.lookup_cons, beq_false_of_ne hne] using ih hnd vals hk

theorem opcodes_nodup : ((List.range 256).map (BitVec.ofNat 8)).Nodup := by
  refine List.Nodup.map_on (fun i hi j hj h => ?_) List.nodup_range
  have hij := congrArg BitVec.toNat h
  simp only [List.mem_range] at hi hj
  simpa [Nat.mod_eq_of_lt hi, Nat.mod_eq_of_lt hj] using hij

/-- The table of 256 classes is read by opcode byte (R79). -/
theorem lookup_romTable (classes : List OpClass) (b : Byte) :
    (((List.range 256).map (BitVec.ofNat 8)).zip classes).lookup b = classes[b.toNat]? := by
  refine lookup_zip_of_getElem? opcodes_nodup classes ?_
  simp [List.getElem?_range b.isLt]

/-! ### The accepted configuration -/

/-- What the configuration channel accepts, in terms of the ROM's class list (R7, R8, R79). -/
def Accepts (classes : List OpClass) (evtCap cmdCap handlerW contextW : Nat) : Prop :=
  classes.length = 256 ∧ classes[0x67]? = some (.fixed 11) ∧ 1 ≤ evtCap ∧ 1 ≤ cmdCap ∧
    (1 ≤ handlerW ∧ handlerW ≤ 64) ∧ (1 ≤ contextW ∧ contextW ≤ 64)

section
variable {rom : List Byte} {evtCap cmdCap handlerW contextW : Nat} {c : Config}

theorem build_of_accepts {classes : List OpClass} (hm : rom.mapM romClass = some classes)
    (ha : Accepts classes evtCap cmdCap handlerW contextW) :
    ∃ c, Config.build rom evtCap cmdCap handlerW contextW = some c := by
  simp only [Config.build, hm]
  exact ⟨_, dif_pos ha⟩

/-- An accepted configuration holds the class list by opcode, the capacities and the widths. -/
theorem build_eq_some (h : Config.build rom evtCap cmdCap handlerW contextW = some c) :
    ∃ classes, rom.mapM romClass = some classes ∧ Accepts classes evtCap cmdCap handlerW contextW ∧
      c.table = ((List.range 256).map (BitVec.ofNat 8)).zip classes ∧ c.evtCapLess1 = evtCap - 1 ∧
      c.cmdCapLess1 = cmdCap - 1 ∧ c.handlerWLess1.val = handlerW - 1 ∧ c.contextWLess1.val = contextW - 1 := by
  unfold Config.build at h
  split at h
  · cases h
  · rename_i classes hm
    split at h
    · rename_i ha
      cases h
      exact ⟨classes, hm, ha, rfl, rfl, rfl, rfl, rfl⟩
    · cases h

theorem build_isSome_iff :
    (∃ c, Config.build rom evtCap cmdCap handlerW contextW = some c) ↔
      ∃ classes, rom.mapM romClass = some classes ∧ Accepts classes evtCap cmdCap handlerW contextW := by
  constructor
  · rintro ⟨c, h⟩
    obtain ⟨classes, hm, ha, -⟩ := build_eq_some h
    exact ⟨classes, hm, ha⟩
  · rintro ⟨classes, hm, ha⟩
    exact build_of_accepts hm ha

/-- SCHEMA(b) of an accepted configuration is the class of entry b; at 0x67, which `Config.schema` fixes, the ROM agrees
(R8). -/
theorem build_schema (h : Config.build rom evtCap cmdCap handlerW contextW = some c) (b : Byte) :
    (rom[b.toNat]?).bind romClass = some (c.schema b) := by
  obtain ⟨classes, hm, ⟨hlen, h67, -⟩, htab, -⟩ := build_eq_some h
  have hb : b.toNat < classes.length := hlen ▸ b.isLt
  rw [← classes_getElem? hm, Config.schema, htab, lookup_romTable]
  by_cases hb67 : b = 0x67
  · subst hb67
    simpa using h67
  · rw [if_neg hb67, List.getElem?_eq_getElem hb, Option.getD_some]

end

/-- Settles O6: acceptance is read off the ROM's class list, and the table is read back by opcode. -/
theorem configurationAcceptance : Obligations.ConfigurationAcceptance := by
  intro rom evtCap cmdCap handlerW contextW
  constructor
  · rw [build_isSome_iff, ← exists_classes_iff]
    constructor
    · rintro ⟨classes, hm, hlen, h67, hrest⟩
      exact ⟨classes_length hm ▸ hlen, ⟨classes, hm⟩, (classes_67_iff hm).mp h67, hrest⟩
    · rintro ⟨hlen, ⟨classes, hm⟩, h67, hrest⟩
      exact ⟨classes, hm, (classes_length hm).trans hlen, (classes_67_iff hm).mpr h67, hrest⟩
  · intro c h
    obtain ⟨classes, -, ⟨-, -, hevt, hcmd, ⟨hh, -⟩, hx, -⟩, -, hevtCap, hcmdCap, hhandlerW, hcontextW⟩ :=
      build_eq_some h
    refine ⟨?_, ?_, ?_, ?_, build_schema h⟩
    · rw [Config.evtCap, hevtCap, Nat.sub_add_cancel hevt]
    · rw [Config.cmdCap, hcmdCap, Nat.sub_add_cancel hcmd]
    · rw [Config.handlerW, hhandlerW, Nat.sub_add_cancel hh]
    · rw [Config.contextW, hcontextW, Nat.sub_add_cancel hx]

end Sys2Proof.Proofs.Scope

/-! The width invariant (R20, R27, R81) and the constancy of the configuration (R21), from what a step does to the
registry; and the fetch of a step (R12, R121). -/

namespace Sys2Proof.Proofs.Scope

open Sys2Proof.Machine

section
variable {s t : State}

/-- `t` has sent, since `s`, no dispatch record with a handler or context beyond the configured widths (R81). -/
def SentFits (s t : State) : Prop :=
  ∃ new, t.out = s.out ++ new ∧
    ∀ r ∈ dispatches new, r.handler.toNat < 2 ^ s.cfg.handlerW ∧ r.context.toNat < 2 ^ s.cfg.contextW

theorem sentFits_of_no_dispatch {new : List Output} (hout : t.out = s.out ++ new) (hnew : dispatches new = []) :
    SentFits s t :=
  ⟨new, hout, by simp [hnew]⟩

theorem entryFits_of_mem_seqOf (hs : s.EntriesFit) {k : Kind} {e : Entry} (he : e ∈ s.seqOf k) :
    entryFits s.cfg e := by
  obtain ⟨hevt, hcmd⟩ := hs
  cases k with
  | event => exact hevt e (List.mem_of_mem_take he)
  | command => exact hcmd e (List.mem_of_mem_take he)

/-- A dispatch record carries the handler and context of its entry (R107), so it fits when the tables do. -/
theorem keepsRegistry_entriesFit (hs : s.EntriesFit) (h : KeepsRegistry s t) : t.EntriesFit ∧ SentFits s t := by
  obtain ⟨new, hout, hnew⟩ := h.sent
  refine ⟨?_, new, hout, fun r hr => ?_⟩
  · rw [State.EntriesFit, h.cfg, h.evtTab, h.cmdTab]
    exact hs
  · obtain ⟨k, key, p, e, he, rfl⟩ := hnew r hr
    exact entryFits_of_mem_seqOf hs he

theorem writeEntry_fits {c : Config} {tab : List Entry} (htab : ∀ e ∈ tab, entryFits c e) (n : Nat) {e : Entry}
    (he : entryFits c e) : ∀ f ∈ writeEntry tab n e, entryFits c f := by
  intro f hf
  rcases mem_writeEntry hf with rfl | hf
  · exact he
  · exact htab f hf

theorem exec_entriesFit {i : Instr} (hs : s.EntriesFit) (hi : OperandsFit s.cfg i) (h : exec i s = .next t) :
    t.EntriesFit ∧ SentFits s t := by
  have ⟨hevts, hcmds⟩ := hs
  rcases exec_registry_cases h with hk | ⟨key, handler, context, rfl, rfl⟩ | ⟨key, handler, context, rfl, rfl⟩ |
    ⟨-, hcfg, hevt, -, hcmd, -, hout⟩
  · exact keepsRegistry_entriesFit hs hk
  · exact ⟨⟨writeEntry_fits hevts s.evtCount hi, hcmds⟩, sentFits_of_no_dispatch rfl rfl⟩
  · exact ⟨⟨hevts, writeEntry_fits hcmds s.cmdCount hi⟩, sentFits_of_no_dispatch rfl rfl⟩
  · refine ⟨?_, sentFits_of_no_dispatch hout rfl⟩
    rw [State.EntriesFit, hcfg, hevt, hcmd]
    exact ⟨fun _ => freeTab_widths, fun _ => freeTab_widths⟩

/-- The byte at `feed_idx` is fetched as the operation it decodes to (R121, R124). -/
theorem fetchStream_of_decode {b : Byte} {i : Instr} (hb : s.chunk[s.feedIdx.toNat]? = some b)
    (hi : decodeStream s.cfg s.decState b = .ok i) : fetchStream s = .ok i := by
  simp [fetchStream, State.chunkRead, hb, hi]

end

/-- Settles O36: what a step appends has come over the sideband wires, what CREATE and DESTROY leave is clipped, and what
is sent comes from a table. -/
theorem entriesKeepTheirWidths : Obligations.EntriesKeepTheirWidths := by
  intro s t hs h
  rcases step_registry_cases h with hk | ⟨i, inbox, agent, hi, h⟩
  · exact keepsRegistry_entriesFit hs hk
  · exact exec_entriesFit (s := { s with inbox := inbox, agent := agent }) hs hi h

/-- Settles O38: no agent and no operation writes the configuration. -/
theorem configurationNeverChanges : Obligations.ConfigurationNeverChanges := by
  intro s t h
  rcases step_registry_cases h with hk | ⟨i, inbox, agent, -, h⟩
  · exact hk.cfg
  · exact exec_cfg (s := { s with inbox := inbox, agent := agent }) h

/-- Settles O8, by whose turn it is (R12). -/
theorem stepRunsTheDecodedOperation : Obligations.StepRunsTheDecodedOperation := by
  refine ⟨fun s r rest hw hb hr => ?_, fun s r rest hw hr => ?_, fun s b i hw hb hp hc hi => ?_⟩
  · simp [step_host hw hb, hostTurn, hr]
  · simp [step_agent hw, agentTurn, hr]
  · simp [step_block hw hb, blockTurn, hp, fetchStream_of_decode hc hi]

end Sys2Proof.Proofs.Scope

/-! The invariant of R31: what the fetch of a byte can give, which operation can fault, and how each shared operation
keeps the decoder state, the running FEED and the dispatch that is out (R30, R31, R35, R121). -/

namespace Sys2Proof.Machine

section
variable {s t : State}

/-! ### The operations that only respond -/

theorem execStatusRead_next {sel : Byte} (h : execStatusRead sel s = .next t) :
    ∃ w d, t = respond w { s with draws := d } := by
  unfold execStatusRead at h
  split at h <;> cases h
  · exact ⟨statusLive s sel, s.draws, rfl⟩
  · exact ⟨_, s.draws + 1, rfl⟩

theorem execReservedOp7_next (rsv : BitVec 5) (h : execReservedOp7 rsv s = .next t) : t = respond respIllegal s := by
  obtain ⟨-, h⟩ := checkBusy_next h
  cases h
  rfl

theorem execIllegalRsv_next (op : BitVec 3) (rsv : BitVec 5) (h : execIllegalRsv op rsv s = .next t) :
    t = respond respIllegal s := by
  unfold execIllegalRsv at h
  split at h
  · cases h
    rfl
  · obtain ⟨-, h⟩ := checkBusy_next h
    cases h
    rfl

/-! ### The fetch of a byte -/

/-- The operation a byte is fetched as: in Idle by the byte's class (R124), in Accumulating by `fill` (R130, R134). -/
theorem fetchStream_cases {i : Instr} (h : fetchStream s = .ok i) :
    (s.curValid = false ∧
      (i = .stream67Fixed11 ∨ (∃ b n, s.cfg.lenOf b = some n ∧ 1 ≤ n ∧ i = .streamFixedN b) ∨
        (∃ b, i = .streamFixed0 b) ∨ (∃ b, i = .streamInvalid b) ∨ ∃ b, i = .streamDataBlock b)) ∨
    (s.curValid = true ∧ ∃ b n, s.cfg.lenOf s.curOp = some n ∧
      ((s.fill.val = n ∧ i = .streamPendingByte b) ∨ (s.fill.val < n ∧ i = .streamPayloadByte b))) := by
  cases hv : s.curValid with
  | false =>
    obtain ⟨b, -, rfl⟩ := fetchStream_idle hv h
    refine .inl ⟨rfl, ?_⟩
    rcases decodeOpcode_cases s.cfg b with ⟨-, hi⟩ | ⟨-, n, hn, h1, hi⟩ | ⟨-, hi⟩ | ⟨-, hi⟩ | ⟨-, hi⟩
    · exact .inl hi
    · exact .inr (.inl ⟨b, n, hn, h1, hi⟩)
    · exact .inr (.inr (.inl ⟨b, hi⟩))
    · exact .inr (.inr (.inr (.inl ⟨b, hi⟩)))
    · exact .inr (.inr (.inr (.inr ⟨b, hi⟩)))
  | true =>
    obtain ⟨b, n, -, hn, hi⟩ := fetchStream_accumulating hv h
    exact .inr ⟨rfl, b, n, hn, hi⟩

/-- The pending opcode of a consistent decoder has a declared length that `fill` does not exceed (R31). -/
theorem decoderOk_pending (h : s.DecoderOk) (hv : s.curValid = true) :
    ∃ n, s.cfg.lenOf s.curOp = some n ∧ 1 ≤ n ∧ s.fill.val ≤ n := by
  simpa [Option.any_eq_true] using h.2 hv

/-- With a consistent decoder and a byte at `feed_idx`, the fetch succeeds (R22, R31, R54). -/
theorem fetchStream_ok (hd : s.DecoderOk) (hc : s.feedIdx.toNat < s.chunk.length) : ∃ i, fetchStream s = .ok i := by
  have hb : s.chunkRead s.feedIdx = some s.chunk[s.feedIdx.toNat] := List.getElem?_eq_getElem hc
  cases hv : s.curValid with
  | false => exact ⟨_, by simp only [fetchStream, hb, State.decState, hv, decodeStream]; rfl⟩
  | true =>
    obtain ⟨n, hn, -, hle⟩ := decoderOk_pending hd hv
    rcases Nat.eq_or_lt_of_le hle with hfill | hfill
    · exact ⟨.streamPendingByte s.chunk[s.feedIdx.toNat], by
        simp [fetchStream, hb, State.decState, hv, decodeStream, hn, hfill]⟩
    · exact ⟨.streamPayloadByte s.chunk[s.feedIdx.toNat], by
        simp [fetchStream, hb, State.decState, hv, decodeStream, hn, hfill, Nat.ne_of_lt hfill]⟩

/-! ### Faults -/

/-- The one operation that can fault is a payload byte with a full accumulator (R52). -/
theorem exec_fault {i : Instr} {f : Fault} (h : exec i s = .fault f) :
    ∃ b, i = .streamPayloadByte b ∧ accCap ≤ s.fill.val := by
  cases i with
  | create => cases checkBusy_fault h
  | reset => cases checkLive_fault h
  | destroy => cases checkLive_fault h
  | regEvent _ _ _ => cases checkLive_fault h
  | regCommand _ _ _ => cases checkLive_fault h
  | feed len data =>
    have h := checkLive_fault h
    split at h <;> cases h
  | statusRead sel =>
    replace h : execStatusRead sel s = .fault f := h
    unfold execStatusRead at h
    split at h <;> cases h
  | reservedOp7 _ => cases checkBusy_fault h
  | illegalRsv op rsv =>
    replace h : execIllegalRsv op rsv s = .fault f := h
    unfold execIllegalRsv at h
    split at h
    · cases h
    · cases checkBusy_fault h
  | streamPayloadByte b =>
    replace h : execStreamPayloadByte b s = .fault f := h
    unfold execStreamPayloadByte at h
    split at h
    · cases h
    · exact ⟨b, rfl, by omega⟩
  | stream67Fixed11 => cases h
  | streamFixed0 _ => cases h
  | streamFixedN _ => cases h
  | streamInvalid _ => cases h
  | streamDataBlock _ => cases h
  | streamPendingByte _ => cases h

theorem decodeRequest_ne_streamPayloadByte (c : Config) (r : Request) (b : Byte) :
    decodeRequest c r ≠ .streamPayloadByte b := by
  intro hb
  rcases decodeRequest_cases c r with ⟨-, hi⟩ | ⟨-, -, hi⟩ |
    ⟨-, ⟨-, hi⟩ | ⟨-, hi⟩ | ⟨-, hi⟩ | ⟨-, _, _, _, hi⟩ | ⟨-, _, _, _, hi⟩ | ⟨-, hi⟩ | ⟨-, hi⟩⟩ <;>
    cases hb.symm.trans hi

theorem exec_request_ne_fault (c : Config) (r : Request) (f : Fault) : exec (decodeRequest c r) s ≠ .fault f := by
  intro h
  obtain ⟨b, hb, -⟩ := exec_fault h
  exact decodeRequest_ne_streamPayloadByte c r b hb

/-- The byte fetched in a consistent decoder does not fault: `fill` is below a length that fits the accumulator. -/
theorem exec_fetched_ne_fault {i : Instr} (hi : fetchStream s = .ok i) (f : Fault) : exec i s ≠ .fault f := by
  intro h
  obtain ⟨b, rfl, hfull⟩ := exec_fault h
  rcases fetchStream_cases hi with ⟨-, hi⟩ | ⟨-, b', n, hn, hi⟩
  · simp at hi
  · have hcap := lenOf_le_accCap hn
    obtain ⟨hlt, -⟩ : s.fill.val < n ∧ b = b' := by simpa using hi
    omega

/-! ### The registry's part of the invariant -/

theorem KeepsRegistry.registryOk (h : KeepsRegistry s t) (hs : s.RegistryOk) : t.RegistryOk := by
  rw [State.RegistryOk, h.cfg, h.evtTab, h.evtCount, h.cmdTab, h.cmdCount]
  exact hs

/-- A registration that is accepted is one below the capacity (R102). -/
theorem execRegEvent_registryOk {key : Byte} {handler context : Wide} (hs : s.RegistryOk)
    (h : execRegEvent key handler context s = .next t) : t.RegistryOk := by
  obtain ⟨-, -, h⟩ := checkLive_next h
  obtain ⟨hec, hcc, het, hct⟩ := hs
  split at h <;> cases h
  · exact ⟨hec, hcc, het, hct⟩
  · have hlt : s.evtCount < s.cfg.evtCap := by omega
    exact ⟨hlt, hcc, (writeEntry_length _ (by omega)).trans het, hct⟩

theorem execRegCommand_registryOk {key : Byte} {handler context : Wide} (hs : s.RegistryOk)
    (h : execRegCommand key handler context s = .next t) : t.RegistryOk := by
  obtain ⟨-, -, h⟩ := checkLive_next h
  obtain ⟨hec, hcc, het, hct⟩ := hs
  split at h <;> cases h
  · exact ⟨hec, hcc, het, hct⟩
  · have hlt : s.cmdCount < s.cfg.cmdCap := by omega
    exact ⟨hec, hlt, het, (writeEntry_length _ (by omega)).trans hct⟩

theorem exec_registryOk {i : Instr} (hs : s.RegistryOk) (h : exec i s = .next t) : t.RegistryOk := by
  rcases exec_registry_cases h with hk | ⟨_, _, _, rfl, -⟩ | ⟨_, _, _, rfl, -⟩ | ⟨-, hcfg, het, hec, hct, hcc, -⟩
  · exact hk.registryOk hs
  · exact execRegEvent_registryOk hs h
  · exact execRegCommand_registryOk hs h
  · simp [State.RegistryOk, hcfg, het, hec, hct, hcc]

theorem step_registryOk (hs : s.RegistryOk) (h : step s = .next t) : t.RegistryOk := by
  rcases step_registry_cases h with hk | ⟨i, inbox, agent, -, h⟩
  · exact hk.registryOk hs
  · exact exec_registryOk (s := { s with inbox := inbox, agent := agent }) hs h

/-! ### The rest of the invariant -/

/-- The invariant without the registry: the decoder state while Live, the running FEED and the dispatch that is
out (R30, R31 points 1 and 2, R35, R131). -/
structure State.ControlOk (s : State) : Prop where
  decoder : s.life = .live → s.DecoderOk
  feed : s.FeedOk
  wait : s.WaitOk

theorem inv_iff : s.Inv ↔ s.ControlOk ∧ s.RegistryOk :=
  ⟨fun ⟨hd, hr, hf, hw⟩ => ⟨⟨hd, hf, hw⟩, hr⟩, fun ⟨⟨hd, hf, hw⟩, hr⟩ => ⟨hd, hr, hf, hw⟩⟩

theorem State.ControlOk.wait_none (h : s.ControlOk) (hb : s.busy = false) : s.wait = .none := by
  obtain ⟨hbusy, -⟩ := h.wait
  by_contra hw
  simp [hbusy hw] at hb

/-- A running FEED has a consistent decoder. -/
theorem State.ControlOk.decoder_of_busy (h : s.ControlOk) (hb : s.busy = true) : s.DecoderOk := h.decoder (h.feed hb).1

theorem State.ControlOk.of_not_busy (hd : s.life = .live → s.DecoderOk) (hb : s.busy = false)
    (hw : s.wait = .none) : s.ControlOk :=
  ⟨hd, by simp [State.FeedOk, hb], by simp [State.WaitOk, hw]⟩

/-- With no dispatch out, the dispatch's part holds. -/
theorem State.ControlOk.of_no_wait (hd : s.life = .live → s.DecoderOk) (hf : s.FeedOk) (hw : s.wait = .none) :
    s.ControlOk :=
  ⟨hd, hf, by simp [State.WaitOk, hw]⟩

/-- Sending a record changes nothing the invariant reads. -/
theorem emit_controlOk (h : s.ControlOk) (o : Output) : (emit o s).ControlOk := ⟨h.decoder, h.feed, h.wait⟩

theorem abortFeed_controlOk (h : s.ControlOk) (w : Word) : (abortFeed w s).ControlOk := .of_not_busy h.decoder rfl rfl

theorem clearCommand_controlOk (h : s.ControlOk) (hw : s.wait = .none) : (clearCommand s).ControlOk :=
  .of_no_wait (fun _ => by simp [State.DecoderOk]) h.feed hw

theorem startCommand_controlOk (h : s.ControlOk) (hw : s.wait = .none) {op : Byte} {n : Nat}
    (hn : s.cfg.lenOf op = some n) (h1 : 1 ≤ n) : (startCommand op s).ControlOk :=
  .of_no_wait (fun _ => by simp [State.DecoderOk, hn, h1]) h.feed hw

theorem appendByte_controlOk (h : s.ControlOk) (hw : s.wait = .none) (hv : s.curValid = true) {n : Nat}
    (hn : s.cfg.lenOf s.curOp = some n) (hlt : s.fill.val < n) (b : Byte) : (appendByte b s).ControlOk := by
  have hcap := lenOf_le_accCap hn
  have hfill : (s.fill + 1).val = s.fill.val + 1 := fill_succ_val (by omega)
  refine .of_no_wait (fun _ => ?_) h.feed hw
  simp only [State.DecoderOk, appendByte_fields, hv, hn, hfill]
  simp
  omega

theorem nextByte_controlOk (h : s.ControlOk) (hw : s.wait = .none) : (nextByte s).ControlOk := by
  rcases nextByte_cases s with ⟨hmore, heq⟩ | ⟨-, heq⟩
  · rw [heq]
    refine .of_no_wait h.decoder (fun hb => ?_) hw
    obtain ⟨hlive, hlen, -⟩ := h.feed hb
    exact ⟨hlive, hlen, (feedIdx_succ_toNat hmore).symm ▸ hmore⟩
  · rw [heq]
    exact .of_not_busy h.decoder rfl hw

theorem commandOk_controlOk (h : s.ControlOk) (hw : s.wait = .none) : (commandOk s).ControlOk := by
  rcases commandOk_cases s with ⟨-, heq⟩ | ⟨-, heq⟩
  · exact heq ▸ nextByte_controlOk (clearCommand_controlOk h hw) hw
  · exact heq ▸ nextByte_controlOk h hw

/-- A command may be dispatched after the byte's event, with its whole payload (R131). -/
theorem dispatch_command_controlOk (h : s.ControlOk) (hw : s.wait = .none) (hb : s.busy = true) (hp : s.phase = .action)
    (hfull : s.curValid = true → s.cfg.lenOf s.curOp = some s.fill.val) (key : Byte) (p : List Byte) :
    (dispatch .command key p commandOk s).ControlOk := by
  rcases dispatch_cases .command key p commandOk s with ⟨e, -, heq⟩ | ⟨-, heq⟩
  · rw [heq]
    exact ⟨h.decoder, h.feed, fun _ => hb, by simp [Kind.wait], fun _ => ⟨hp, hfull⟩⟩
  · exact heq ▸ commandOk_controlOk h hw

/-- The event dispatch is the first thing of a byte step (R121, R122). -/
theorem dispatch_event_controlOk (h : s.ControlOk) (hw : s.wait = .none) (hb : s.busy = true) (hp : s.phase = .event) :
    (dispatch .event evtChunk [] eventOk s).ControlOk := by
  rcases dispatch_cases .event evtChunk [] eventOk s with ⟨e, -, heq⟩ | ⟨-, heq⟩
  · rw [heq]
    exact ⟨h.decoder, h.feed, fun _ => hb, fun _ => hp, by simp [Kind.wait]⟩
  · rw [heq]
    exact .of_no_wait h.decoder h.feed hw

theorem receiveAnswer_controlOk (h : s.ControlOk) (a : Answer) : (receiveAnswer a s).ControlOk := by
  have htaken : ({ s with wait := .none } : State).ControlOk := .of_no_wait h.decoder h.feed rfl
  rcases receiveAnswer_cases a s with ⟨-, heq⟩ | ⟨-, -, heq⟩ | ⟨-, -, heq⟩ | ⟨-, -, heq⟩
  · exact heq ▸ abortFeed_controlOk h _
  · rw [heq]
    exact .of_no_wait h.decoder h.feed rfl
  · exact heq ▸ commandOk_controlOk htaken rfl
  · rw [heq]
    exact h

/-! ### Operations -/

/-- CREATE and RESET leave an idle decoder, DESTROY leaves Uninit, where nothing is asked of the decoder (R31). -/
theorem execCreate_controlOk (h : s.ControlOk) (he : execCreate s = .next t) : t.ControlOk := by
  obtain ⟨hb, he⟩ := checkBusy_next he
  cases he
  exact .of_not_busy (fun _ => ⟨fun _ => ⟨rfl, rfl⟩, nofun⟩) hb (h.wait_none hb)

theorem execReset_controlOk (h : s.ControlOk) (he : execReset s = .next t) : t.ControlOk := by
  obtain ⟨hb, -, he⟩ := checkLive_next he
  cases he
  exact .of_not_busy (fun _ => ⟨fun _ => ⟨rfl, rfl⟩, nofun⟩) hb (h.wait_none hb)

theorem execDestroy_controlOk (h : s.ControlOk) (he : execDestroy s = .next t) : t.ControlOk := by
  obtain ⟨hb, -, he⟩ := checkLive_next he
  cases he
  exact .of_not_busy nofun hb (h.wait_none hb)

theorem execRegEvent_controlOk (h : s.ControlOk) {key : Byte} {handler context : Wide}
    (he : execRegEvent key handler context s = .next t) : t.ControlOk := by
  obtain ⟨-, -, he⟩ := checkLive_next he
  split at he <;> cases he
  · exact emit_controlOk h _
  · exact ⟨h.decoder, h.feed, h.wait⟩

theorem execRegCommand_controlOk (h : s.ControlOk) {key : Byte} {handler context : Wide}
    (he : execRegCommand key handler context s = .next t) : t.ControlOk := by
  obtain ⟨-, -, he⟩ := checkLive_next he
  split at he <;> cases he
  · exact emit_controlOk h _
  · exact ⟨h.decoder, h.feed, h.wait⟩

/-- An accepted FEED starts at index 0 of a chunk of `feed_len` bytes, or has ended (R120, R140). -/
theorem execFeed_controlOk (h : s.ControlOk) {len : Half} {data : List Byte} (he : execFeed len data s = .next t) :
    t.ControlOk := by
  obtain ⟨hb, hlive, he⟩ := checkLive_next he
  split at he
  case isFalse => cases he
  case isTrue hlen =>
    cases he
    split
    · exact .of_not_busy h.decoder rfl (h.wait_none hb)
    · next hne =>
      refine .of_no_wait h.decoder (fun _ => ⟨hlive, hlen, ?_⟩) (h.wait_none hb)
      simpa [BitVec.toNat_eq, Nat.pos_iff_ne_zero] using hne

theorem execStatusRead_controlOk (h : s.ControlOk) {sel : Byte} (he : execStatusRead sel s = .next t) :
    t.ControlOk := by
  obtain ⟨w, d, rfl⟩ := execStatusRead_next he
  exact ⟨h.decoder, h.feed, h.wait⟩

theorem exec_request_controlOk (h : s.ControlOk) {c : Config} {r : Request}
    (he : exec (decodeRequest c r) s = .next t) : t.ControlOk := by
  rcases decodeRequest_cases c r with ⟨-, hi⟩ | ⟨-, -, hi⟩ |
    ⟨-, ⟨-, hi⟩ | ⟨-, hi⟩ | ⟨-, hi⟩ | ⟨-, _, _, _, hi⟩ | ⟨-, _, _, _, hi⟩ | ⟨-, hi⟩ | ⟨-, hi⟩⟩ <;> rw [hi] at he
  · obtain rfl := execReservedOp7_next (rsvField r.word) he
    exact emit_controlOk h _
  · obtain rfl := execIllegalRsv_next (opField r.word) (rsvField r.word) he
    exact emit_controlOk h _
  · exact execCreate_controlOk h he
  · exact execReset_controlOk h he
  · exact execDestroy_controlOk h he
  · exact execRegEvent_controlOk h he
  · exact execRegCommand_controlOk h he
  · exact execFeed_controlOk h he
  · exact execStatusRead_controlOk h he

/-- A payload byte below the declared length leaves `fill` at most that length, and dispatches the command exactly when
it has reached it (R130, R131). -/
theorem execStreamPayloadByte_controlOk (h : s.ControlOk) (hw : s.wait = .none) (hb : s.busy = true)
    (hp : s.phase = .action) (hv : s.curValid = true) {n : Nat} (hn : s.cfg.lenOf s.curOp = some n)
    (hlt : s.fill.val < n) {b : Byte} (he : execStreamPayloadByte b s = .next t) : t.ControlOk := by
  have happ : (appendByte b s).ControlOk := appendByte_controlOk h hw hv hn hlt b
  unfold execStreamPayloadByte at he
  split at he
  case isFalse => cases he
  case isTrue =>
    cases he
    split
    · next hfull => exact dispatch_command_controlOk happ hw hb hp (fun _ => hfull) _ _
    · exact nextByte_controlOk happ hw

/-- The operation a byte is fetched as runs in the decoder state that selects it (R121). -/
theorem exec_fetched_controlOk (h : s.ControlOk) (hw : s.wait = .none) (hb : s.busy = true) (hp : s.phase = .action)
    {i : Instr} (hi : fetchStream s = .ok i) (he : exec i s = .next t) : t.ControlOk := by
  rcases fetchStream_cases hi with
    ⟨hv, rfl | ⟨b, n, hn, h1, rfl⟩ | ⟨b, rfl⟩ | ⟨b, rfl⟩ | ⟨b, rfl⟩⟩ | ⟨hv, b, n, hn, ⟨-, rfl⟩ | ⟨hlt, rfl⟩⟩
  · cases he
    exact nextByte_controlOk (startCommand_controlOk h hw (lenOf_67 s.cfg) (by decide)) hw
  · cases he
    exact nextByte_controlOk (startCommand_controlOk h hw hn h1) hw
  · cases he
    exact dispatch_command_controlOk h hw hb hp (by simp [hv]) _ _
  · cases he
    exact nextByte_controlOk (emit_controlOk h _) hw
  · cases he
    exact nextByte_controlOk (emit_controlOk h _) hw
  · cases he
    exact abortFeed_controlOk h _
  · exact execStreamPayloadByte_controlOk h hw hb hp hv hn hlt he

theorem step_controlOk (h : s.ControlOk) (he : step s = .next t) : t.ControlOk := by
  rcases step_cases s with
    ⟨-, -, ⟨-, hs⟩ | ⟨r, rest, -, hs⟩⟩ | ⟨-, ⟨-, hs⟩ | ⟨a, rest, -, hs⟩ | ⟨r, rest, -, hs⟩⟩ |
    ⟨hw, hb, ⟨hp, hs⟩ | ⟨hp, i, hi, hs⟩ | ⟨-, f, -, hs⟩⟩ <;> rw [hs] at he
  · cases he
    exact h
  · exact exec_request_controlOk (s := { s with inbox := rest }) ⟨h.decoder, h.feed, h.wait⟩ he
  · cases he
    exact h
  · cases he
    exact receiveAnswer_controlOk (s := { s with agent := rest }) ⟨h.decoder, h.feed, h.wait⟩ a
  · exact exec_request_controlOk (s := { s with agent := rest }) ⟨h.decoder, h.feed, h.wait⟩ he
  · cases he
    exact dispatch_event_controlOk h hw hb hp
  · exact exec_fetched_controlOk h hw hb hp hi he
  · cases he

end

end Sys2Proof.Machine

/-! Proofs about the invariant of the state (R31), and that no step from it faults. -/

namespace Sys2Proof.Proofs.InstanceState

open Sys2Proof.Machine

/-- Settles O35: the registry's part by what an operation does to the tables, the rest by whose turn it is. -/
theorem everyStepKeepsTheInvariant : Obligations.EveryStepKeepsTheInvariant := by
  intro s t hs h
  obtain ⟨hcontrol, hregistry⟩ := inv_iff.mp hs
  exact inv_iff.mpr ⟨step_controlOk hcontrol h, step_registryOk hregistry h⟩

/-- A running FEED that meets the invariant has a byte at `feed_idx`, and its fetch succeeds (R31, R54). -/
theorem fetchStream_ok_of_controlOk {s : State} (h : s.ControlOk) (hb : s.busy = true) :
    ∃ i, fetchStream s = .ok i := by
  obtain ⟨-, hlen, hidx⟩ := h.feed hb
  exact fetchStream_ok (h.decoder_of_busy hb) (hlen.symm ▸ hidx)

theorem noFault_of_ne_fault {r : Result} (h : ∀ f, r ≠ .fault f) : NoFault r := by
  cases r with
  | next _ => trivial
  | refused _ => trivial
  | fault f => exact h f rfl

/-- Settles O37: a request cannot fault, the fetch of a running FEED succeeds, and the byte fetched does not fault. -/
theorem noStepFaults : Obligations.NoStepFaults := by
  intro s hs
  obtain ⟨hcontrol, -⟩ := inv_iff.mp hs
  refine noFault_of_ne_fault fun f hf => ?_
  rcases step_cases s with
    ⟨-, -, ⟨-, h⟩ | ⟨r, rest, -, h⟩⟩ | ⟨-, ⟨-, h⟩ | ⟨a, rest, -, h⟩ | ⟨r, rest, -, h⟩⟩ |
    ⟨-, hb, ⟨-, h⟩ | ⟨-, i, hi, h⟩ | ⟨-, g, hg, -⟩⟩
  · cases h.symm.trans hf
  · exact exec_request_ne_fault s.cfg r f (h.symm.trans hf)
  · cases h.symm.trans hf
  · cases h.symm.trans hf
  · exact exec_request_ne_fault s.cfg r f (h.symm.trans hf)
  · cases h.symm.trans hf
  · exact exec_fetched_ne_fault hi f (h.symm.trans hf)
  · obtain ⟨i, hi⟩ := fetchStream_ok_of_controlOk hcontrol hb
    cases hi.symm.trans hg

end Sys2Proof.Proofs.InstanceState

/-! Accumulator bytes at and above `fill` are unobservable (R25, D28): each operation on two states that differ in such
bytes only gives two such states again. -/

namespace Sys2Proof.Machine

section
variable {s s' t t' : State}

/-! ### States that differ in stale bytes -/

theorem sameButStale_iff : s.SameButStale s' ↔
    ∃ a, s' = { s with acc := a } ∧ ∀ k, k < s.fill.val → a.toList[k]? = s.acc.toList[k]? :=
  ⟨fun ⟨heq, hbelow⟩ => ⟨s'.acc, heq, hbelow⟩, by rintro ⟨a, rfl, hbelow⟩; exact ⟨rfl, hbelow⟩⟩

namespace State.SameButStale

theorem refl (s : State) : s.SameButStale s := ⟨rfl, fun _ _ => rfl⟩

/-- An update that neither reads nor writes `acc` and does not raise `fill` shows no stale byte. -/
theorem map {f : State → State} (h : s.SameButStale s') (hcomm : ∀ a, f { s with acc := a } = { f s with acc := a })
    (hfill : (f s).fill.val ≤ s.fill.val) : (f s).SameButStale (f s') := by
  obtain ⟨a, rfl, hbelow⟩ := sameButStale_iff.mp h
  have hself : f s = { f s with acc := s.acc } := hcomm s.acc
  have hacc : (f s).acc = s.acc := (congrArg State.acc hself :)
  refine sameButStale_iff.mpr ⟨a, hcomm a, fun k hk => ?_⟩
  rw [hacc]
  exact hbelow k (by omega)

theorem payload_eq (h : s.SameButStale s') : s'.payload = s.payload := by
  obtain ⟨a, rfl, hbelow⟩ := sameButStale_iff.mp h
  refine List.ext_getElem? fun k => ?_
  by_cases hk : k < s.fill.val
  · simpa [State.payload, hk] using hbelow k hk
  · simp [State.payload, hk]

/-- Status words 4 to 7 show 0x00 at and above `fill` (R86). -/
theorem statusAcc_eq (h : s.SameButStale s') (k : Nat) : statusAcc s' k = statusAcc s k := by
  obtain ⟨a, rfl, hbelow⟩ := sameButStale_iff.mp h
  have hshown (j : Nat) : shownByte { s with acc := a } j = shownByte s j := by
    by_cases hj : j < s.fill.val
    · simp [shownByte, hj, List.getD_eq_getElem?_getD, hbelow j hj]
    · simp [shownByte, hj]
  simp [statusAcc, hshown]

theorem statusLive_eq (h : s.SameButStale s') (sel : Byte) : statusLive s' sel = statusLive s sel := by
  have hacc := h.statusAcc_eq
  obtain ⟨a, rfl, -⟩ := sameButStale_iff.mp h
  simp only [statusLive, hacc]
  rfl

/-! The shared operations. -/

theorem emit (h : s.SameButStale s') (o : Output) : (emit o s).SameButStale (emit o s') :=
  h.map (fun _ => rfl) le_rfl

theorem clearCommand (h : s.SameButStale s') : (clearCommand s).SameButStale (clearCommand s') :=
  h.map (fun _ => rfl) (Nat.zero_le _)

theorem startCommand (h : s.SameButStale s') (op : Byte) : (startCommand op s).SameButStale (startCommand op s') :=
  h.map (fun _ => rfl) (Nat.zero_le _)

theorem abortFeed (h : s.SameButStale s') (w : Word) : (abortFeed w s).SameButStale (abortFeed w s') :=
  h.map (fun _ => rfl) le_rfl

theorem nextByte (h : s.SameButStale s') : (nextByte s).SameButStale (nextByte s') := by
  refine h.map (fun a => ?_) (by simp)
  simp only [Machine.nextByte]
  split <;> rfl

/-- The byte stored at `fill` is the same in both, and is no longer above `fill` (R130). -/
theorem appendByte (h : s.SameButStale s') (b : Byte) (hfill : s.fill.val < accCap) :
    (appendByte b s).SameButStale (appendByte b s') := by
  obtain ⟨a, rfl, hbelow⟩ := sameButStale_iff.mp h
  refine sameButStale_iff.mpr ⟨a.setIfInBounds s.fill.val b, rfl, fun k hk => ?_⟩
  have hk : k < s.fill.val + 1 := fill_succ_val hfill ▸ hk
  rcases Nat.lt_succ_iff_lt_or_eq.mp hk with hk | rfl
  · simpa [List.getElem?_set, Nat.ne_of_gt hk] using hbelow k hk
  · simp [hfill]

theorem commandOk (h : s.SameButStale s') : (commandOk s).SameButStale (commandOk s') := by
  have hv : s'.curValid = s.curValid := by rw [h.1]
  rcases commandOk_cases s with ⟨ht, heq⟩ | ⟨hf, heq⟩
  · simpa [heq, Machine.commandOk, hv, ht] using h.clearCommand.nextByte
  · simpa [heq, Machine.commandOk, hv, hf] using h.nextByte

theorem lookup_eq (h : s.SameButStale s') (k : Kind) (key : Byte) : s'.lookup k key = s.lookup k key := by
  obtain ⟨a, rfl, -⟩ := sameButStale_iff.mp h
  exact lookup_congr rfl rfl k key

theorem dispatch (h : s.SameButStale s') (k : Kind) (key : Byte) (p : List Byte) {onOk : State → State}
    (hok : (onOk s).SameButStale (onOk s')) : (dispatch k key p onOk s).SameButStale (dispatch k key p onOk s') := by
  have hl := h.lookup_eq k key
  rcases dispatch_cases k key p onOk s with ⟨e, he, heq⟩ | ⟨he, heq⟩
  · rw [heq, dispatch_of_some (hl.trans he)]
    exact h.map (fun _ => rfl) le_rfl
  · rw [heq, dispatch_of_none (hl.trans he)]
    exact hok

theorem receiveAnswer (h : s.SameButStale s') (a : Answer) :
    (receiveAnswer a s).SameButStale (receiveAnswer a s') := by
  have hw : s'.wait = s.wait := by rw [h.1]
  have htaken : ({ s with wait := .none } : State).SameButStale { s' with wait := .none } :=
    h.map (f := fun s => { s with wait := .none }) (fun _ => rfl) le_rfl
  cases a with
  | fail => exact h.map (fun _ => rfl) le_rfl
  | ok =>
    cases hs : s.wait with
    | none => simpa [Machine.receiveAnswer, hw, hs] using h
    | command => simpa [Machine.receiveAnswer, hw, hs] using htaken.commandOk
    | event =>
      simp only [Machine.receiveAnswer, hw, hs]
      exact htaken.map (f := eventOk) (fun _ => rfl) le_rfl

end State.SameButStale

/-! ### Operations and steps -/

/-- Whenever `r` is a next state, so is `r'`, and the two differ in stale bytes only. -/
def Mirrors (r r' : Result) : Prop := ∀ t, r = .next t → ∃ t', r' = .next t' ∧ t.SameButStale t'

theorem mirrors_next (h : t.SameButStale t') : Mirrors (.next t) (.next t') := by
  intro u hu
  cases hu
  exact ⟨t', rfl, h⟩

theorem mirrors_fault (f : Fault) (r : Result) : Mirrors (.fault f) r := nofun

theorem mirrors_refused (x : Refusal) (r : Result) : Mirrors (.refused x) r := nofun

theorem mirrors_checkBusy (h : s.SameButStale s') {run run' : Result} (hrun : Mirrors run run') :
    Mirrors (checkBusy s run) (checkBusy s' run') := by
  intro t ht
  obtain ⟨hb, ht⟩ := checkBusy_next ht
  have hb' : s'.busy = false := by rw [h.1]; exact hb
  exact checkBusy_of_not_busy hb' ▸ hrun t ht

theorem mirrors_checkLive (h : s.SameButStale s') {run run' : Result} (hrun : Mirrors run run') :
    Mirrors (checkLive s run) (checkLive s' run') := by
  intro t ht
  obtain ⟨hb, hl, ht⟩ := checkLive_next ht
  have hb' : s'.busy = false := by rw [h.1]; exact hb
  have hl' : s'.life = .live := by rw [h.1]; exact hl
  exact checkLive_of_live hb' hl' ▸ hrun t ht

/-- CREATE writes every byte of `acc` (R150). -/
theorem execCreate_mirrors (h : s.SameButStale s') : Mirrors (execCreate s) (execCreate s') := by
  refine mirrors_checkBusy h (mirrors_next ?_)
  obtain ⟨a, rfl, -⟩ := sameButStale_iff.mp h
  exact .refl _

theorem execReset_mirrors (h : s.SameButStale s') : Mirrors (execReset s) (execReset s') :=
  mirrors_checkLive h (mirrors_next (h.map
    (f := fun s => respond respOk (drawFeed (clearCommand { s with feedsDone := 0 }))) (fun _ => rfl) (Nat.zero_le _)))

/-- What DESTROY leaves in `acc` does not depend on what it held (R153). -/
theorem execDestroy_mirrors (h : s.SameButStale s') : Mirrors (execDestroy s) (execDestroy s') := by
  refine mirrors_checkLive h (mirrors_next ?_)
  obtain ⟨a, rfl, -⟩ := sameButStale_iff.mp h
  exact .refl _

theorem execRegEvent_mirrors (h : s.SameButStale s') (key : Byte) (handler context : Wide) :
    Mirrors (execRegEvent key handler context s) (execRegEvent key handler context s') := by
  refine mirrors_checkLive h (mirrors_next ?_)
  have happ := h.map (f := fun s => respond respOk (appendEvt (entryOf key handler context) s)) (fun _ => rfl) le_rfl
  have hfull := h.emit (.response respFull)
  obtain ⟨a, rfl, -⟩ := sameButStale_iff.mp h
  dsimp only
  split
  · exact hfull
  · exact happ

theorem execRegCommand_mirrors (h : s.SameButStale s') (key : Byte) (handler context : Wide) :
    Mirrors (execRegCommand key handler context s) (execRegCommand key handler context s') := by
  refine mirrors_checkLive h (mirrors_next ?_)
  have happ := h.map (f := fun s => respond respOk (appendCmd (entryOf key handler context) s)) (fun _ => rfl) le_rfl
  have hfull := h.emit (.response respFull)
  obtain ⟨a, rfl, -⟩ := sameButStale_iff.mp h
  dsimp only
  split
  · exact hfull
  · exact happ

theorem execFeed_mirrors (h : s.SameButStale s') (len : Half) (data : List Byte) :
    Mirrors (execFeed len data s) (execFeed len data s') := by
  refine mirrors_checkLive h ?_
  split
  · refine mirrors_next ?_
    split
    · exact h.map (f := fun s => finishFeed { s with busy := true, feedLen := len, chunk := data })
        (fun _ => rfl) le_rfl
    · exact h.map (f := fun s =>
        { s with busy := true, feedLen := len, chunk := data, feedIdx := 0, phase := .event }) (fun _ => rfl) le_rfl
  · exact mirrors_refused _ _

theorem execStatusRead_of_live (hl : s.life = .live) (sel : Byte) :
    execStatusRead sel s = .next (respond (statusLive s sel) s) := by
  rw [execStatusRead, hl]

theorem execStatusRead_of_uninit (hl : s.life = .uninit) (sel : Byte) :
    execStatusRead sel s =
      .next (respond (statusUninit (Config.freeStatusWord s.draws) sel) { s with draws := s.draws + 1 }) := by
  rw [execStatusRead, hl]

/-- A status word shows no stale byte (R86). -/
theorem execStatusRead_mirrors (h : s.SameButStale s') (sel : Byte) :
    Mirrors (execStatusRead sel s) (execStatusRead sel s') := by
  have hlife : s'.life = s.life := by rw [h.1]
  cases hl : s.life with
  | live =>
    rw [execStatusRead_of_live hl, execStatusRead_of_live (hlife.trans hl), h.statusLive_eq]
    exact mirrors_next (h.emit _)
  | uninit =>
    rw [execStatusRead_of_uninit hl, execStatusRead_of_uninit (hlife.trans hl)]
    exact mirrors_next (h.map (f := fun s =>
      respond (statusUninit (Config.freeStatusWord s.draws) sel) { s with draws := s.draws + 1 }) (fun _ => rfl) le_rfl)

theorem execIllegalRsv_mirrors (h : s.SameButStale s') (op : BitVec 3) (rsv : BitVec 5) :
    Mirrors (execIllegalRsv op rsv s) (execIllegalRsv op rsv s') := by
  have hresp := mirrors_next (h.emit (.response respIllegal))
  unfold execIllegalRsv
  split
  · exact hresp
  · exact mirrors_checkBusy h hresp

/-- The payload dispatched is made of the bytes below `fill` (R131). -/
theorem execStreamPayloadByte_mirrors (h : s.SameButStale s') (b : Byte) :
    Mirrors (execStreamPayloadByte b s) (execStreamPayloadByte b s') := by
  have hfill : s'.fill = s.fill := by rw [h.1]
  by_cases hlt : s.fill.val < accCap
  · have happ := h.appendByte b hlt
    have hdisp := happ.dispatch .command (appendByte b s).curOp (appendByte b s).payload happ.commandOk
    have hop : (appendByte b s').curOp = (appendByte b s).curOp := by rw [happ.1]
    have hfill' : (appendByte b s').fill = (appendByte b s).fill := by rw [happ.1]
    have hcfg : (appendByte b s').cfg = (appendByte b s).cfg := by rw [happ.1]
    simp only [execStreamPayloadByte, hfill, if_pos hlt, hop, hfill', hcfg, happ.payload_eq]
    refine mirrors_next ?_
    split
    · exact hdisp
    · exact happ.nextByte
  · simp only [execStreamPayloadByte, if_neg hlt]
    exact mirrors_fault _ _

theorem exec_mirrors (h : s.SameButStale s') (i : Instr) : Mirrors (exec i s) (exec i s') := by
  cases i with
  | create => exact execCreate_mirrors h
  | reset => exact execReset_mirrors h
  | destroy => exact execDestroy_mirrors h
  | regEvent key handler context => exact execRegEvent_mirrors h key handler context
  | regCommand key handler context => exact execRegCommand_mirrors h key handler context
  | feed len data => exact execFeed_mirrors h len data
  | statusRead sel => exact execStatusRead_mirrors h sel
  | reservedOp7 rsv => exact mirrors_checkBusy h (mirrors_next (h.emit _))
  | illegalRsv op rsv => exact execIllegalRsv_mirrors h op rsv
  | stream67Fixed11 => exact mirrors_next (h.startCommand _).nextByte
  | streamFixed0 b => exact mirrors_next (h.dispatch _ _ _ h.commandOk)
  | streamFixedN b => exact mirrors_next (h.startCommand b).nextByte
  | streamInvalid b =>
    exact mirrors_next (h.map (f := report codeUnknown b) (fun _ => rfl) le_rfl).nextByte
  | streamDataBlock b =>
    exact mirrors_next (h.map (f := report codeDataBlock b) (fun _ => rfl) le_rfl).nextByte
  | streamPayloadByte b => exact execStreamPayloadByte_mirrors h b
  | streamPendingByte b => exact mirrors_next (h.abortFeed _)

theorem hostTurn_of_nil (hi : s.inbox = []) : hostTurn s = .next s := by
  rw [hostTurn, hi]

theorem hostTurn_of_cons {r : Request} {rest : List Request} (hi : s.inbox = r :: rest) :
    hostTurn s = exec (decodeRequest s.cfg r) { s with inbox := rest } := by
  rw [hostTurn, hi]

theorem hostTurn_mirrors (h : s.SameButStale s') : Mirrors (hostTurn s) (hostTurn s') := by
  have hin : s'.inbox = s.inbox := by rw [h.1]
  have hdecode (r : Request) : decodeRequest s'.cfg r = decodeRequest s.cfg r := by rw [h.1]
  cases hi : s.inbox with
  | nil =>
    rw [hostTurn_of_nil hi, hostTurn_of_nil (hin.trans hi)]
    exact mirrors_next h
  | cons r rest =>
    rw [hostTurn_of_cons hi, hostTurn_of_cons (hin.trans hi), hdecode]
    exact exec_mirrors (h.map (f := fun s => { s with inbox := rest }) (fun _ => rfl) le_rfl) _

theorem agentTurn_of_nil (ha : s.agent = []) : agentTurn s = .next s := by
  rw [agentTurn, ha]

theorem agentTurn_of_answer {a : Answer} {rest : List AgentAct} (ha : s.agent = .answer a :: rest) :
    agentTurn s = .next (receiveAnswer a { s with agent := rest }) := by
  rw [agentTurn, ha]

theorem agentTurn_of_request {r : Request} {rest : List AgentAct} (ha : s.agent = .request r :: rest) :
    agentTurn s = exec (decodeRequest s.cfg r) { s with agent := rest } := by
  rw [agentTurn, ha]

theorem agentTurn_mirrors (h : s.SameButStale s') : Mirrors (agentTurn s) (agentTurn s') := by
  have hag : s'.agent = s.agent := by rw [h.1]
  have hdecode (r : Request) : decodeRequest s'.cfg r = decodeRequest s.cfg r := by rw [h.1]
  have htaken (rest : List AgentAct) : ({ s with agent := rest } : State).SameButStale { s' with agent := rest } :=
    h.map (f := fun s => { s with agent := rest }) (fun _ => rfl) le_rfl
  cases ha : s.agent with
  | nil =>
    rw [agentTurn_of_nil ha, agentTurn_of_nil (hag.trans ha)]
    exact mirrors_next h
  | cons act rest =>
    cases act with
    | answer a =>
      rw [agentTurn_of_answer ha, agentTurn_of_answer (hag.trans ha)]
      exact mirrors_next ((htaken rest).receiveAnswer a)
    | request r =>
      rw [agentTurn_of_request ha, agentTurn_of_request (hag.trans ha), hdecode]
      exact exec_mirrors (htaken rest) _

/-- The fetch of a byte does not read `acc` (R124, R130). -/
theorem fetchStream_eq (h : s.SameButStale s') : fetchStream s' = fetchStream s := by
  obtain ⟨a, rfl, -⟩ := sameButStale_iff.mp h
  rfl

theorem blockTurn_mirrors (h : s.SameButStale s') : Mirrors (blockTurn s) (blockTurn s') := by
  have hp : s'.phase = s.phase := by rw [h.1]
  unfold blockTurn
  rw [hp, fetchStream_eq h]
  cases s.phase with
  | event => exact mirrors_next (h.dispatch _ _ _ (h.map (f := eventOk) (fun _ => rfl) le_rfl))
  | action =>
    cases fetchStream s with
    | error f => exact mirrors_fault _ _
    | ok i => exact exec_mirrors h i

theorem step_mirrors (h : s.SameButStale s') : Mirrors (step s) (step s') := by
  have hw : s'.wait = s.wait := by rw [h.1]
  have hb : s'.busy = s.busy := by rw [h.1]
  unfold step turn
  rw [hw, hb]
  split
  · exact agentTurn_mirrors h
  · split
    · exact blockTurn_mirrors h
    · exact hostTurn_mirrors h

end

end Sys2Proof.Machine

/-! Proofs about the accumulator (R25, D28). -/

namespace Sys2Proof.Proofs.InstanceState

open Sys2Proof.Machine

/-- Settles O45: no agent and no operation reads `acc` at or above `fill`. -/
theorem staleBytesAreUnobservable : Obligations.StaleBytesAreUnobservable :=
  fun _ _ t h => step_mirrors h t

end Sys2Proof.Proofs.InstanceState

/-! What the parts of a byte step keep besides the decoder state, who writes `life`, and how a FEED ends (R26, R34, R36,
R121, R137). -/

namespace Sys2Proof.Machine

section
variable {s t u : State}

/-! ### The frame of a byte step -/

/-- From `s` to `t` the fields that no part of a byte step writes are kept, and so is `acc`, which only the append of a
payload byte writes (R34, R121, R178). The registry is `KeepsRegistry`'s. -/
structure KeepsFeed (s t : State) : Prop where
  life : t.life = s.life
  feedLen : t.feedLen = s.feedLen
  chunk : t.chunk = s.chunk
  inbox : t.inbox = s.inbox
  agent : t.agent = s.agent
  draws : t.draws = s.draws
  acc : t.acc = s.acc

theorem KeepsFeed.trans (h : KeepsFeed s t) (h' : KeepsFeed t u) : KeepsFeed s u :=
  ⟨h'.life.trans h.life, h'.feedLen.trans h.feedLen, h'.chunk.trans h.chunk, h'.inbox.trans h.inbox,
    h'.agent.trans h.agent, h'.draws.trans h.draws, h'.acc.trans h.acc⟩

section
variable (s : State)

theorem emit_keepsFeed (o : Output) : KeepsFeed s (emit o s) := ⟨rfl, rfl, rfl, rfl, rfl, rfl, rfl⟩

theorem startCommand_keepsFeed (op : Byte) : KeepsFeed s (startCommand op s) := ⟨rfl, rfl, rfl, rfl, rfl, rfl, rfl⟩

theorem clearCommand_keepsFeed : KeepsFeed s (clearCommand s) := ⟨rfl, rfl, rfl, rfl, rfl, rfl, rfl⟩

theorem abortFeed_keepsFeed (w : Word) : KeepsFeed s (abortFeed w s) := ⟨rfl, rfl, rfl, rfl, rfl, rfl, rfl⟩

theorem nextByte_keepsFeed : KeepsFeed s (nextByte s) := by
  constructor <;> simp

theorem commandOk_keepsFeed : KeepsFeed s (commandOk s) := by
  rcases commandOk_cases s with ⟨-, heq⟩ | ⟨-, heq⟩
  · exact heq ▸ (clearCommand_keepsFeed s).trans (nextByte_keepsFeed _)
  · exact heq ▸ nextByte_keepsFeed s

theorem dispatch_command_keepsFeed (key : Byte) (p : List Byte) :
    KeepsFeed s (dispatch .command key p commandOk s) := by
  rcases dispatch_cases .command key p commandOk s with ⟨e, -, heq⟩ | ⟨-, heq⟩
  · rw [heq]
    exact ⟨rfl, rfl, rfl, rfl, rfl, rfl, rfl⟩
  · exact heq ▸ commandOk_keepsFeed s

end

/-- A payload byte is appended, and then the command is dispatched or the FEED goes on or ends (R130, R131). -/
theorem execStreamPayloadByte_cases {b : Byte} (h : execStreamPayloadByte b s = .next t) :
    s.fill.val < accCap ∧
      (t = dispatch .command s.curOp (appendByte b s).payload commandOk (appendByte b s) ∨
        t = nextByte (appendByte b s)) := by
  unfold execStreamPayloadByte at h
  split at h
  case isFalse => cases h
  case isTrue hlt =>
    cases h
    split
    · exact ⟨hlt, .inl rfl⟩
    · exact ⟨hlt, .inr rfl⟩

theorem execStreamPayloadByte_keepsFeed {b : Byte} (h : execStreamPayloadByte b s = .next t) :
    KeepsFeed (appendByte b s) t := by
  obtain ⟨-, rfl | rfl⟩ := execStreamPayloadByte_cases h
  · exact dispatch_command_keepsFeed _ _ _
  · exact nextByte_keepsFeed _

/-- The seven operations a stream byte can be. -/
def IsStream (b : Byte) (i : Instr) : Prop :=
  i = .stream67Fixed11 ∨ i = .streamFixed0 b ∨ i = .streamFixedN b ∨ i = .streamInvalid b ∨
    i = .streamDataBlock b ∨ i = .streamPayloadByte b ∨ i = .streamPendingByte b

/-- A stream operation keeps the registry (R28). -/
theorem exec_stream_keepsRegistry {i : Instr} {b : Byte} (hi : IsStream b i) (h : exec i s = .next t) :
    KeepsRegistry s t := by
  rcases exec_registry_cases h with hk | ⟨_, _, _, hreg, -⟩ | ⟨_, _, _, hreg, -⟩ | ⟨hreg, -⟩
  · exact hk
  all_goals rcases hi with rfl | rfl | rfl | rfl | rfl | rfl | rfl <;> simp at hreg

theorem exec_stream_keepsFeed {i : Instr} {b : Byte} (hi : IsStream b i) (h : exec i s = .next t) :
    KeepsFeed s t ∨ (i = .streamPayloadByte b ∧ KeepsFeed (appendByte b s) t) := by
  rcases hi with rfl | rfl | rfl | rfl | rfl | rfl | rfl
  · cases h
    exact .inl ((startCommand_keepsFeed s _).trans (nextByte_keepsFeed _))
  · cases h
    exact .inl (dispatch_command_keepsFeed s _ _)
  · cases h
    exact .inl ((startCommand_keepsFeed s _).trans (nextByte_keepsFeed _))
  · cases h
    exact .inl ((emit_keepsFeed s _).trans (nextByte_keepsFeed _))
  · cases h
    exact .inl ((emit_keepsFeed s _).trans (nextByte_keepsFeed _))
  · exact .inr ⟨rfl, execStreamPayloadByte_keepsFeed h⟩
  · cases h
    exact .inl (abortFeed_keepsFeed s _)

theorem exec_stream_life {i : Instr} {b : Byte} (hi : IsStream b i) (h : exec i s = .next t) : t.life = s.life := by
  rcases exec_stream_keepsFeed hi h with hk | ⟨-, hk⟩
  · exact hk.life
  · exact hk.life

/-- Every operation but CREATE and DESTROY keeps `life` (R36). -/
theorem exec_life {i : Instr} (h : exec i s = .next t) :
    t.life = s.life ∨ (i = .create ∧ t.life = .live) ∨ (i = .destroy ∧ t.life = .uninit) := by
  cases i with
  | create =>
    obtain ⟨-, h⟩ := checkBusy_next h
    cases h
    exact .inr (.inl ⟨rfl, rfl⟩)
  | destroy =>
    obtain ⟨-, -, h⟩ := checkLive_next h
    cases h
    exact .inr (.inr ⟨rfl, rfl⟩)
  | reset =>
    obtain ⟨-, -, h⟩ := checkLive_next h
    cases h
    exact .inl rfl
  | regEvent key handler context =>
    obtain ⟨-, -, h⟩ := checkLive_next h
    split at h <;> cases h <;> exact .inl rfl
  | regCommand key handler context =>
    obtain ⟨-, -, h⟩ := checkLive_next h
    split at h <;> cases h <;> exact .inl rfl
  | feed len data =>
    obtain ⟨-, -, h⟩ := checkLive_next h
    split at h
    · cases h
      split <;> exact .inl rfl
    · cases h
  | statusRead sel =>
    obtain ⟨w, d, rfl⟩ := execStatusRead_next h
    exact .inl rfl
  | reservedOp7 rsv =>
    obtain rfl := execReservedOp7_next rsv h
    exact .inl rfl
  | illegalRsv op rsv =>
    obtain rfl := execIllegalRsv_next op rsv h
    exact .inl rfl
  | stream67Fixed11 => exact .inl (exec_stream_life (b := 0x67) (by simp [IsStream]) h)
  | streamFixed0 b => exact .inl (exec_stream_life (b := b) (by simp [IsStream]) h)
  | streamFixedN b => exact .inl (exec_stream_life (b := b) (by simp [IsStream]) h)
  | streamInvalid b => exact .inl (exec_stream_life (b := b) (by simp [IsStream]) h)
  | streamDataBlock b => exact .inl (exec_stream_life (b := b) (by simp [IsStream]) h)
  | streamPayloadByte b => exact .inl (exec_stream_life (b := b) (by simp [IsStream]) h)
  | streamPendingByte b => exact .inl (exec_stream_life (b := b) (by simp [IsStream]) h)

/-! ### The end of a FEED -/

/-- From `s` to `t` the FEED has ended with full success: one response, i32(L), and one more FEED counted (R136). -/
def Succeeds (s t : State) : Prop :=
  t.out = s.out ++ [.response (s.feedLen.setWidth 32)] ∧ t.feedsDone = s.feedsDone + 1

theorem nextByte_succeeds (hb : s.busy = true) (h : (nextByte s).busy = false) : Succeeds s (nextByte s) := by
  rcases nextByte_cases s with ⟨-, heq⟩ | ⟨-, heq⟩ <;> rw [heq] at h ⊢
  · cases hb.symm.trans h
  · exact ⟨rfl, rfl⟩

theorem commandOk_succeeds (hb : s.busy = true) (h : (commandOk s).busy = false) : Succeeds s (commandOk s) := by
  rcases commandOk_cases s with ⟨-, heq⟩ | ⟨-, heq⟩ <;> rw [heq] at h ⊢
  · exact nextByte_succeeds (s := clearCommand s) hb h
  · exact nextByte_succeeds hb h

/-- A FEED does not end while a command is out. -/
theorem dispatch_command_succeeds (hb : s.busy = true) {key : Byte} {p : List Byte}
    (h : (dispatch .command key p commandOk s).busy = false) :
    Succeeds s (dispatch .command key p commandOk s) := by
  rcases dispatch_cases .command key p commandOk s with ⟨e, -, heq⟩ | ⟨-, heq⟩ <;> rw [heq] at h ⊢
  · cases hb.symm.trans h
  · exact commandOk_succeeds hb h

theorem dispatch_event_busy (s : State) : (dispatch .event evtChunk [] eventOk s).busy = s.busy := by
  rcases dispatch_cases .event evtChunk [] eventOk s with ⟨e, -, heq⟩ | ⟨-, heq⟩ <;> rw [heq] <;> rfl

/-- A request that is accepted while a FEED runs leaves it running (R159, R194). -/
theorem exec_request_busy {c : Config} {r : Request} (hb : s.busy = true)
    (h : exec (decodeRequest c r) s = .next t) : t.busy = true := by
  have hrefused (h' : s.busy = false) : t.busy = true := by cases hb.symm.trans h'
  rcases decodeRequest_cases c r with ⟨-, hi⟩ | ⟨-, -, hi⟩ |
    ⟨-, ⟨-, hi⟩ | ⟨-, hi⟩ | ⟨-, hi⟩ | ⟨-, _, _, _, hi⟩ | ⟨-, _, _, _, hi⟩ | ⟨-, hi⟩ | ⟨-, hi⟩⟩ <;> rw [hi] at h
  · exact hrefused (checkBusy_next h).1
  · obtain rfl := execIllegalRsv_next (opField r.word) (rsvField r.word) h
    exact hb
  · exact hrefused (checkBusy_next h).1
  · exact hrefused (checkLive_next h).1
  · exact hrefused (checkLive_next h).1
  · exact hrefused (checkLive_next h).1
  · exact hrefused (checkLive_next h).1
  · exact hrefused (checkLive_next h).1
  · obtain ⟨w, d, rfl⟩ := execStatusRead_next h
    exact hb

/-- From `s` to `t` the FEED has ended with exactly one response, last, of one of the three kinds (R137): i32(L),
−(i+1), or SENTINEL from completion-pending (R134). -/
def EndsWithOneResult (s t : State) : Prop :=
  ∃ new w, t.out = s.out ++ new ++ [.response w] ∧ responses new = [] ∧
    ((w = s.feedLen.setWidth 32 ∧ t.feedsDone = s.feedsDone + 1) ∨
     (w = BitVec.ofInt 32 (-((s.feedIdx.toNat : Int) + 1)) ∧ t.feedsDone = s.feedsDone) ∨
     (w = 0x80000000 ∧ t.feedsDone = s.feedsDone ∧ s.Pending ∧ t.Pending ∧ t.curOp = s.curOp))

theorem endsWithOneResult_of_succeeds (h : Succeeds s t) : EndsWithOneResult s t :=
  let ⟨hout, hdone⟩ := h
  ⟨[], _, by simpa using hout, rfl, .inl ⟨rfl, hdone⟩⟩

/-- Success after the report of the last byte (R126, R127). -/
theorem endsWithOneResult_of_report {code b : Byte} (h : Succeeds (report code b s) t) :
    EndsWithOneResult s t :=
  let ⟨hout, hdone⟩ := h
  ⟨[.report { code := code, byte := b, index := s.feedIdx }], _, hout, rfl, .inl ⟨rfl, hdone⟩⟩

/-- An answer ends the FEED by a Fail, or by the Ok to the command of the last byte (R123, R125). -/
theorem receiveAnswer_ends (a : Answer) (hb : s.busy = true) (h : (receiveAnswer a s).busy = false) :
    EndsWithOneResult s (receiveAnswer a s) := by
  rcases receiveAnswer_cases a s with ⟨-, heq⟩ | ⟨-, -, heq⟩ | ⟨-, -, heq⟩ | ⟨-, -, heq⟩ <;> rw [heq] at h ⊢
  · exact ⟨[], failWord s.feedIdx, by simp, rfl, .inr (.inl ⟨rfl, rfl⟩)⟩
  · cases hb.symm.trans h
  · exact endsWithOneResult_of_succeeds (commandOk_succeeds (s := { s with wait := .none }) hb h)
  · cases hb.symm.trans h

theorem exec_fetched_ends {i : Instr} (hi : fetchStream s = .ok i) (hb : s.busy = true) (he : exec i s = .next t)
    (h : t.busy = false) : EndsWithOneResult s t := by
  rcases fetchStream_cases hi with
    ⟨-, rfl | ⟨b, -, -, -, rfl⟩ | ⟨b, rfl⟩ | ⟨b, rfl⟩ | ⟨b, rfl⟩⟩ | ⟨hv, b, n, hn, ⟨hfill, rfl⟩ | ⟨-, rfl⟩⟩
  · cases he
    exact endsWithOneResult_of_succeeds (s := s) (nextByte_succeeds (s := startCommand 0x67 s) hb h)
  · cases he
    exact endsWithOneResult_of_succeeds (s := s) (nextByte_succeeds (s := startCommand b s) hb h)
  · cases he
    exact endsWithOneResult_of_succeeds (s := s) (dispatch_command_succeeds hb h)
  · cases he
    exact endsWithOneResult_of_report (nextByte_succeeds (s := report codeUnknown b s) hb h)
  · cases he
    exact endsWithOneResult_of_report (nextByte_succeeds (s := report codeDataBlock b s) hb h)
  · cases he
    have hpending : s.Pending := ⟨hv, hfill ▸ hn⟩
    exact ⟨[], respSentinel, by simp, rfl, .inr (.inr ⟨rfl, rfl, hpending, hpending, rfl⟩)⟩
  · obtain ⟨-, rfl | rfl⟩ := execStreamPayloadByte_cases he
    · exact endsWithOneResult_of_succeeds (s := s) (dispatch_command_succeeds (s := appendByte b s) hb h)
    · exact endsWithOneResult_of_succeeds (s := s) (nextByte_succeeds (s := appendByte b s) hb h)

/-! ### The decoder -/

theorem clearCommand_of_idle (hv : s.curValid = false) (hidle : s.fill = 0 ∧ s.curOp = 0) : clearCommand s = s := by
  cases s
  simp_all [clearCommand]

/-- From a decoder that R31 allows, a successful command leaves it Idle, whether or not one was pending (R125, R132). -/
theorem commandOk_eq (hidle : s.curValid = false → s.fill = 0 ∧ s.curOp = 0) :
    commandOk s = nextByte (clearCommand s) := by
  rcases commandOk_cases s with ⟨-, heq⟩ | ⟨hv, heq⟩
  · exact heq
  · rw [heq, clearCommand_of_idle hv (hidle hv)]

theorem decodeStream_idle (hv : s.curValid = false) (b : Byte) :
    decodeStream s.cfg s.decState b = .ok (decodeOpcode s.cfg b) := by
  simp [State.decState, hv, decodeStream]

/-- 0x67 has the class Fixed(11) in every configuration (R8). -/
theorem ne_67_of_schema {c : Config} {b : Byte} {k : OpClass} (h : c.schema b = k) (hk : k ≠ .fixed 11) :
    b ≠ 103#8 := by
  rintro rfl
  exact hk (h ▸ schema_67 c)

end

end Sys2Proof.Machine

/-! Proofs about the state: what is written by which operation, and how the decoder and the FEED go on
(R20 to R36). -/

namespace Sys2Proof.Proofs.InstanceState

open Sys2Proof.Machine

/-- Settles O16: a successful command clears the decoder, and then the FEED goes on or ends. -/
theorem commandOkReturnsToIdle : Obligations.CommandOkReturnsToIdle := by
  intro s rest hw ha hidle
  have hstep : step s = .next (commandOk { s with agent := rest, wait := .none }) := by
    rw [step_agent (by simp [hw]), agentTurn_of_answer ha]
    simp [receiveAnswer, hw]
  rw [hstep, commandOk_eq (s := { s with agent := rest, wait := .none }) hidle]
  constructor
  · intro hmore
    rw [nextByte_of_more (s := clearCommand { s with agent := rest, wait := .none }) hmore]
    rfl
  · intro hlast
    rw [nextByte_of_last (s := clearCommand { s with agent := rest, wait := .none }) (Nat.not_lt.mpr hlast)]
    rfl

/-- Settles O23, by the byte's class. -/
theorem idleByteIsClassified : Obligations.IdleByteIsClassified := by
  intro s b hv
  rw [decodeStream_idle hv]
  refine ⟨fun h => ?_, fun h => ?_, fun h => ?_, fun n h hn => ?_⟩
  · simp [decodeOpcode, ne_67_of_schema h nofun, h]
  · simp [decodeOpcode, ne_67_of_schema h nofun, h]
  · simp [decodeOpcode, ne_67_of_schema h (by decide), h]
  · by_cases hb : b = 103#8
    · simp [decodeOpcode, hb]
    · simp [decodeOpcode, hb, h, hn]

/-- Settles O39: the four ways an operation treats the registry, and the two ways a step does. -/
theorem registryIsAppendOnly : Obligations.RegistryIsAppendOnly := by
  refine ⟨fun i s t h => ?_, fun s t h => ?_⟩
  · rcases exec_registry_cases h with hk | ⟨key, handler, context, hi, rfl⟩ | ⟨key, handler, context, hi, rfl⟩ |
      ⟨hi, -, -, hevt, -, hcmd, -⟩
    · exact ⟨.inl hk.evtSeq, .inl hk.cmdSeq⟩
    · exact ⟨.inr (.inl ⟨key, handler, context, hi, appendEvt_evtSeq _ s⟩),
        .inl (appendEvt_cmdSeq (entryOf key handler context) s)⟩
    · exact ⟨.inl (appendCmd_evtSeq (entryOf key handler context) s),
        .inr (.inl ⟨key, handler, context, hi, appendCmd_cmdSeq _ s⟩)⟩
    · exact ⟨.inr (.inr ⟨hi, by simp [State.evtSeq, hevt]⟩), .inr (.inr ⟨hi, by simp [State.cmdSeq, hcmd]⟩)⟩
  · rcases step_registry_cases h with hk | ⟨i, inbox, agent, -, h⟩
    · exact .inl ⟨hk.evtSeq, hk.cmdSeq⟩
    · exact .inr ⟨i, _, h, rfl, rfl⟩

/-- Settles O40, by the operation. -/
theorem onlyCreateAndDestroyWriteLife : Obligations.OnlyCreateAndDestroyWriteLife :=
  fun _ _ _ h => exec_life h

/-- Settles O42, by whose turn it is: an answer or the byte's own operation ends the FEED, nothing else does. -/
theorem feedEndsWithOneResult : Obligations.FeedEndsWithOneResult := by
  intro s t _ hb h hend
  rcases step_cases s with
    ⟨-, hidle, -⟩ | ⟨-, ⟨-, hs⟩ | ⟨a, rest, -, hs⟩ | ⟨r, rest, -, hs⟩⟩ |
    ⟨-, -, ⟨-, hs⟩ | ⟨-, i, hi, hs⟩ | ⟨-, f, -, hs⟩⟩
  · cases hb.symm.trans hidle
  all_goals rw [hs] at h
  · cases h
    cases hb.symm.trans hend
  · cases h
    exact receiveAnswer_ends (s := { s with agent := rest }) a hb hend
  · cases (exec_request_busy (s := { s with agent := rest }) hb h).symm.trans hend
  · cases h
    cases hb.symm.trans ((dispatch_event_busy s).symm.trans hend)
  · exact exec_fetched_ends hi hb h hend
  · cases h

/-- Settles O44: a stream operation keeps the registry and the frame of its byte step, after the append if it is a
payload byte. -/
theorem streamOperationsFrame : Obligations.StreamOperationsFrame := by
  intro i b s t hi h
  have hr : KeepsRegistry s t := exec_stream_keepsRegistry hi h
  rcases exec_stream_keepsFeed hi h with hk | ⟨rfl, hk⟩
  · exact ⟨hk.life, hr.evtCount, hr.evtTab, hr.cmdCount, hr.cmdTab, hk.feedLen, hk.chunk, hk.inbox, hk.agent, hk.draws,
      hr.cfg, fun k _ => by rw [hk.acc]⟩
  · refine ⟨hk.life, hr.evtCount, hr.evtTab, hr.cmdCount, hr.cmdTab, hk.feedLen, hk.chunk, hk.inbox, hk.agent, hk.draws,
      hr.cfg, fun k hne => ?_⟩
    have hne : s.fill.val ≠ k := fun heq => hne.elim (· rfl) (· heq.symm)
    simp [hk.acc, hne]

end Sys2Proof.Proofs.InstanceState

/-! Proofs about single operations: the request words R90 writes out, CREATE, RESET, DESTROY, the empty
FEED, and power-on (R20, R140, R150, R151, R153, R190). -/

namespace Sys2Proof.Proofs.InstanceState

open Sys2Proof.Machine

/-- The request words of R90 by the fields of R71: OP, RSV, KEY, LEN. -/
theorem specWords_eq_requestWord :
    (0x00000000 : Word) = requestWord 0 0 0 0 ∧ (0x00000001 : Word) = requestWord 1 0 0 0 ∧
    (0x00000002 : Word) = requestWord 2 0 0 0 ∧ (0x00000103 : Word) = requestWord 3 0 0x01 0 ∧
    (0x00006704 : Word) = requestWord 4 0 0x67 0 ∧ (0x000C0005 : Word) = requestWord 5 0 0 12 ∧
    (0x00000006 : Word) = requestWord 6 0 0 0 ∧ (0x00000406 : Word) = requestWord 6 0 0x04 0 ∧
    (0x00000007 : Word) = requestWord 7 0 0 0 := by
  decide

/-- Settles O3: each word is split into its fields, and OP picks the operation. -/
theorem specWordsDecode : Obligations.SpecWordsDecode := by
  intro c h x d
  obtain ⟨hcreate, hreset, hdestroy, hevt, hcmd, hfeed, hmain, hacc, hop7⟩ := specWords_eq_requestWord
  refine ⟨?_, ?_, ?_, ?_, ?_, ?_, ?_, ?_, ?_, if_pos rfl⟩
  · rw [hcreate]; simp [decodeRequest]
  · rw [hreset]; simp [decodeRequest]
  · rw [hdestroy]; simp [decodeRequest]
  · rw [hevt]; simp [decodeRequest]
  · rw [hcmd]; simp [decodeRequest]
  · rw [hfeed]; simp [decodeRequest]
  · rw [hmain]; simp [decodeRequest]
  · rw [hacc]; simp [decodeRequest]
  · rw [hop7]; simp [decodeRequest]

/-- Settles O24: CREATE passes its one check, and the fields it leaves free are read off what it writes. -/
theorem createInitializes : Obligations.CreateInitializes := by
  intro s hb
  exact ⟨_, _, _, _, _, checkBusy_of_not_busy hb, freeTab_length _ _ _ _, freeTab_length _ _ _ _⟩

/-- Settles O25: RESET passes its checks, and the fields it leaves free are read off what it writes. -/
theorem resetClearsTheDecoder : Obligations.ResetClearsTheDecoder := by
  intro s hb hl
  exact ⟨_, _, _, checkLive_of_live hb hl⟩

/-- Settles O26: DESTROY passes its checks, and the fields it leaves free are read off what it writes. -/
theorem destroyTearsDown : Obligations.DestroyTearsDown := by
  intro s hb hl
  exact ⟨_, _, _, _, _, _, _, _, _, _, checkLive_of_live hb hl, freeTab_length _ _ _ _, freeTab_length _ _ _ _⟩

/-- Settles O29: the empty chunk passes the checks and ends the FEED in full success at once. -/
theorem emptyChunkSucceeds : Obligations.EmptyChunkSucceeds := by
  intro s hb hl
  have hrun : exec (.feed 0 []) s = .next (finishFeed { s with busy := true, feedLen := 0, chunk := [] }) :=
    checkLive_of_live hb hl
  rw [hrun, hb]
  rfl

/-- Settles O34: power-on is Uninit with no FEED running, empty sequences, and tables of zeros as long as the
capacities. -/
theorem powerOnMeetsTheInvariant : Obligations.PowerOnMeetsTheInvariant := by
  have hzero {n : Nat} {e : Entry} (he : e ∈ List.replicate n { key := 0, handler := 0, context := 0 }) :
      entryFits Config.hardware e := by
    rw [List.eq_of_mem_replicate he]
    exact ⟨by simp, by simp⟩
  refine ⟨inv_iff.mpr ⟨.of_not_busy nofun rfl rfl, Nat.zero_le _, Nat.zero_le _, ?_, ?_⟩, ?_, ?_⟩
  · exact List.length_replicate
  · exact List.length_replicate
  · exact fun _ => hzero
  · exact fun _ => hzero

/-- Settles O46: CREATE's next state names none of these fields of the state before it. -/
theorem createOverwritesTheFieldsOfR20 : Obligations.CreateOverwritesTheFieldsOfR20 := by
  intro s v op f a n ec cc et ct l i hb
  exact ⟨_, checkBusy_of_not_busy hb, checkBusy_of_not_busy hb⟩

end Sys2Proof.Proofs.InstanceState

/-! What a running FEED keeps: which operations run at all while `busy` is set, and that only the end of the FEED counts
it (R26, R54, R58, R64, R136, R194). -/

namespace Sys2Proof.Machine

section
variable {s t : State}

/-! ### The feed counter while the FEED goes on (R136) -/

theorem nextByte_feedsDone (h : (nextByte s).busy = true) : (nextByte s).feedsDone = s.feedsDone := by
  rcases nextByte_cases s with ⟨-, heq⟩ | ⟨-, heq⟩ <;> rw [heq] at h ⊢
  cases h

theorem commandOk_feedsDone (h : (commandOk s).busy = true) : (commandOk s).feedsDone = s.feedsDone := by
  rcases commandOk_cases s with ⟨-, heq⟩ | ⟨-, heq⟩ <;> rw [heq] at h ⊢
  · exact nextByte_feedsDone h
  · exact nextByte_feedsDone h

theorem dispatch_command_feedsDone {key : Byte} {p : List Byte}
    (h : (dispatch .command key p commandOk s).busy = true) :
    (dispatch .command key p commandOk s).feedsDone = s.feedsDone := by
  rcases dispatch_cases .command key p commandOk s with ⟨e, -, heq⟩ | ⟨-, heq⟩ <;> rw [heq] at h ⊢
  · rfl
  · exact commandOk_feedsDone h

theorem receiveAnswer_feedsDone {a : Answer} (h : (receiveAnswer a s).busy = true) :
    (receiveAnswer a s).feedsDone = s.feedsDone := by
  rcases receiveAnswer_cases a s with ⟨-, heq⟩ | ⟨-, -, heq⟩ | ⟨-, -, heq⟩ | ⟨-, -, heq⟩ <;> rw [heq] at h ⊢
  · rfl
  · rfl
  · exact commandOk_feedsDone h

theorem exec_stream_feedsDone {i : Instr} {b : Byte} (hi : IsStream b i) (he : exec i s = .next t)
    (h : t.busy = true) : t.feedsDone = s.feedsDone := by
  rcases hi with rfl | rfl | rfl | rfl | rfl | rfl | rfl
  · cases he
    exact nextByte_feedsDone h
  · cases he
    exact dispatch_command_feedsDone h
  · cases he
    exact nextByte_feedsDone h
  · cases he
    exact nextByte_feedsDone h
  · cases he
    exact nextByte_feedsDone h
  · obtain ⟨-, rfl | rfl⟩ := execStreamPayloadByte_cases he
    · exact dispatch_command_feedsDone h
    · exact nextByte_feedsDone h
  · cases he
    rfl

/-! ### Steps of a running FEED -/

/-- From `s` to `t` the chunk and its length (R54), the registry (R64), the host's requests and `life` (R58) are kept,
and a FEED that goes on is not counted (R136). -/
def Undisturbed (s t : State) : Prop :=
  t.chunk = s.chunk ∧ t.feedLen = s.feedLen ∧ t.evtSeq = s.evtSeq ∧ t.cmdSeq = s.cmdSeq ∧ t.inbox = s.inbox ∧
    t.life = s.life ∧ (t.busy = true → t.feedsDone = s.feedsDone)

theorem undisturbed_refl (s : State) : Undisturbed s s := ⟨rfl, rfl, rfl, rfl, rfl, rfl, fun _ => rfl⟩

theorem receiveAnswer_keepsFeed (a : Answer) (s : State) : KeepsFeed s (receiveAnswer a s) := by
  have hreleased : KeepsFeed s { s with wait := .none } := ⟨rfl, rfl, rfl, rfl, rfl, rfl, rfl⟩
  rcases receiveAnswer_cases a s with ⟨-, heq⟩ | ⟨-, -, heq⟩ | ⟨-, -, heq⟩ | ⟨-, -, heq⟩ <;> rw [heq]
  · exact abortFeed_keepsFeed s _
  · exact ⟨rfl, rfl, rfl, rfl, rfl, rfl, rfl⟩
  · exact hreleased.trans (commandOk_keepsFeed _)
  · exact ⟨rfl, rfl, rfl, rfl, rfl, rfl, rfl⟩

theorem receiveAnswer_undisturbed (a : Answer) (s : State) : Undisturbed s (receiveAnswer a s) :=
  have hr := receiveAnswer_keepsRegistry s a
  have hk := receiveAnswer_keepsFeed a s
  ⟨hk.chunk, hk.feedLen, hr.evtSeq, hr.cmdSeq, hk.inbox, hk.life, receiveAnswer_feedsDone⟩

theorem dispatch_event_undisturbed (s : State) : Undisturbed s (dispatch .event evtChunk [] eventOk s) := by
  rcases dispatch_cases .event evtChunk [] eventOk s with ⟨e, -, heq⟩ | ⟨-, heq⟩ <;> rw [heq]
  · exact undisturbed_refl s
  · exact undisturbed_refl s

/-- While a FEED runs, an operation that is not refused is a stream byte's own, or only answers: a STATUS_READ, or the
ILLEGAL of a word with its OP (R75, R159, R194). -/
theorem exec_cases_of_busy {i : Instr} (hb : s.busy = true) (h : exec i s = .next t) :
    (∃ b, IsStream b i) ∨ ∃ w d, t = respond w { s with draws := d } := by
  cases i with
  | create => cases hb.symm.trans (checkBusy_next h).1
  | reset => cases hb.symm.trans (checkLive_next h).1
  | destroy => cases hb.symm.trans (checkLive_next h).1
  | regEvent _ _ _ => cases hb.symm.trans (checkLive_next h).1
  | regCommand _ _ _ => cases hb.symm.trans (checkLive_next h).1
  | feed _ _ => cases hb.symm.trans (checkLive_next h).1
  | statusRead sel => exact .inr (execStatusRead_next h)
  | reservedOp7 _ => cases hb.symm.trans (checkBusy_next h).1
  | illegalRsv op rsv => exact .inr ⟨respIllegal, s.draws, execIllegalRsv_next op rsv h⟩
  | stream67Fixed11 => exact .inl ⟨0x67, by simp [IsStream]⟩
  | streamFixed0 b => exact .inl ⟨b, by simp [IsStream]⟩
  | streamFixedN b => exact .inl ⟨b, by simp [IsStream]⟩
  | streamInvalid b => exact .inl ⟨b, by simp [IsStream]⟩
  | streamDataBlock b => exact .inl ⟨b, by simp [IsStream]⟩
  | streamPayloadByte b => exact .inl ⟨b, by simp [IsStream]⟩
  | streamPendingByte b => exact .inl ⟨b, by simp [IsStream]⟩

theorem exec_stream_undisturbed {i : Instr} {b : Byte} (hi : IsStream b i) (h : exec i s = .next t) :
    Undisturbed s t := by
  have hr := exec_stream_keepsRegistry hi h
  have hdone := exec_stream_feedsDone hi h
  rcases exec_stream_keepsFeed hi h with hk | ⟨-, hk⟩
  · exact ⟨hk.chunk, hk.feedLen, hr.evtSeq, hr.cmdSeq, hk.inbox, hk.life, hdone⟩
  · exact ⟨hk.chunk, hk.feedLen, hr.evtSeq, hr.cmdSeq, hk.inbox, hk.life, hdone⟩

theorem exec_undisturbed_of_busy {i : Instr} (hb : s.busy = true) (h : exec i s = .next t) : Undisturbed s t := by
  rcases exec_cases_of_busy hb h with ⟨b, hi⟩ | ⟨w, d, rfl⟩
  · exact exec_stream_undisturbed hi h
  · exact undisturbed_refl s

theorem step_undisturbed_of_busy (hb : s.busy = true) (h : step s = .next t) : Undisturbed s t := by
  rcases step_cases s with
    ⟨-, hidle, -⟩ | ⟨-, ⟨-, hs⟩ | ⟨a, rest, -, hs⟩ | ⟨r, rest, -, hs⟩⟩ |
    ⟨-, -, ⟨-, hs⟩ | ⟨-, i, -, hs⟩ | ⟨-, f, -, hs⟩⟩
  · cases hb.symm.trans hidle
  all_goals rw [hs] at h
  · cases h
    exact undisturbed_refl s
  · cases h
    exact receiveAnswer_undisturbed a { s with agent := rest }
  · exact exec_undisturbed_of_busy (s := { s with agent := rest }) hb h
  · cases h
    exact dispatch_event_undisturbed s
  · exact exec_undisturbed_of_busy hb h
  · cases h

end

end Sys2Proof.Machine

/-! Proofs about the block's arrays: the payload, the registrations, and the chunk of a FEED (R51, R53, R54, R58,
R64). -/

namespace Sys2Proof.Proofs.Memory

open Sys2Proof.Machine

/-- Settles O28: the FEED passes its checks, and its chunk is not empty. -/
theorem feedBegins : Obligations.FeedBegins := by
  intro s len data hb hl hlen hne
  have hrun : exec (.feed len data) s = .next (if len = 0
      then finishFeed { s with busy := true, feedLen := len, chunk := data }
      else { s with busy := true, feedLen := len, feedIdx := 0, chunk := data, phase := .event }) :=
    (checkLive_of_live hb hl).trans (if_pos hlen)
  rw [hrun, if_neg hne]

/-- Settles O22: R31 gives the pending opcode a declared length, which `fill` has reached or is below. -/
theorem payloadBytesAreNotClassified : Obligations.PayloadBytesAreNotClassified := by
  intro s b hd hv
  obtain ⟨n, hn, -, hle⟩ := decoderOk_pending hd hv
  rcases Nat.eq_or_lt_of_le hle with hfull | hlt
  · simp [State.decState, hv, decodeStream, hn, hfull]
  · simp [State.decState, hv, decodeStream, hn, hlt, Nat.ne_of_lt hlt, Nat.ne_of_gt hlt]

/-- Settles O27: a registration passes its checks, and its own count against its own capacity decides. -/
theorem registrationAppendsOrIsFull : Obligations.RegistrationAppendsOrIsFull := by
  intro s key h x hb hl
  have hevt : exec (.regEvent key h x) s = .next (if s.evtCount = s.cfg.evtCap then respond respFull s
      else respond respOk (appendEvt (entryOf key h x) s)) := checkLive_of_live hb hl
  have hcmd : exec (.regCommand key h x) s = .next (if s.cmdCount = s.cfg.cmdCap then respond respFull s
      else respond respOk (appendCmd (entryOf key h x) s)) := checkLive_of_live hb hl
  refine ⟨fun hroom => ?_, fun hfull => ?_, fun hroom => ?_, fun hfull => ?_⟩
  · rw [hevt, if_neg hroom]
    rfl
  · rw [hevt, if_pos hfull]
    rfl
  · rw [hcmd, if_neg hroom]
    rfl
  · rw [hcmd, if_pos hfull]
    rfl

/-- Settles O43: `life` is Live while a FEED runs (R30), and no turn of an agent disturbs it. -/
theorem runningFeedIsUndisturbed : Obligations.RunningFeedIsUndisturbed := by
  intro s t hs hb h
  obtain ⟨hcontrol, -⟩ := inv_iff.mp hs
  obtain ⟨hlive, -⟩ := hcontrol.feed hb
  obtain ⟨hchunk, hlen, hevt, hcmd, hinbox, hlife, hdone⟩ := step_undisturbed_of_busy hb h
  exact ⟨hchunk, hlen, hevt, hcmd, hinbox, hlife.trans hlive, hdone⟩

end Sys2Proof.Proofs.Memory

/-! What a host request and a stream byte decode to, by the operation (R71 to R73, R75, R78), and that encoding and
decoding are inverse. -/

namespace Sys2Proof

section
variable (c : Config) (h x : Wide) (l : List Byte) (key : Byte) (len : Half) (rsv : BitVec 5)

/-! ### Host requests, by the fields of the word -/

theorem decodeRequest_create : decodeRequest c ⟨requestWord 0 0 key len, h, x, l⟩ = .create := by
  simp [decodeRequest]

theorem decodeRequest_reset : decodeRequest c ⟨requestWord 1 0 key len, h, x, l⟩ = .reset := by
  simp [decodeRequest]

theorem decodeRequest_destroy : decodeRequest c ⟨requestWord 2 0 key len, h, x, l⟩ = .destroy := by
  simp [decodeRequest]

theorem decodeRequest_feed : decodeRequest c ⟨requestWord 5 0 key len, h, x, l⟩ = .feed len l := by
  simp [decodeRequest]

theorem decodeRequest_statusRead : decodeRequest c ⟨requestWord 6 0 key len, h, x, l⟩ = .statusRead key := by
  simp [decodeRequest]

theorem decodeRequest_reservedOp7 : decodeRequest c ⟨requestWord 7 rsv key len, h, x, l⟩ = .reservedOp7 rsv := by
  simp [decodeRequest]

theorem decodeRequest_illegalRsv {op : BitVec 3} {rsv : BitVec 5} (hop : op ≠ 7) (hrsv : rsv ≠ 0) :
    decodeRequest c ⟨requestWord op rsv key len, h, x, l⟩ = .illegalRsv op rsv := by
  simp only [decodeRequest, opField_requestWord, rsvField_requestWord, if_neg hop, if_pos hrsv]

end

section
variable {c : Config} {d : DecState} {b : Byte} {i : Instr}

/-! ### Opcode bytes, by class (R124) -/

theorem decodeOpcode_67 : decodeOpcode c 0x67 = .stream67Fixed11 := if_pos rfl

theorem decodeOpcode_of_invalid (hb : c.schema b = .invalid) : decodeOpcode c b = .streamInvalid b := by
  simp [decodeOpcode, Machine.ne_67_of_schema hb nofun, hb]

theorem decodeOpcode_of_dataBlock (hb : c.schema b = .dataBlock) : decodeOpcode c b = .streamDataBlock b := by
  simp [decodeOpcode, Machine.ne_67_of_schema hb nofun, hb]

theorem decodeOpcode_of_fixed0 (hb : c.schema b = .fixed 0) : decodeOpcode c b = .streamFixed0 b := by
  simp [decodeOpcode, Machine.ne_67_of_schema hb (by decide), hb]

theorem decodeOpcode_of_fixedN {n : Nat} (hne : b ≠ 0x67) (hb : c.lenOf b = some n) (hn : 1 ≤ n) :
    decodeOpcode c b = .streamFixedN b := by
  obtain ⟨-, k, hk, rfl⟩ := lenOf_eq_some hb
  have hk0 : k ≠ 0 := fun h0 => by simp [h0] at hn
  rw [decodeOpcode, if_neg hne, hk]
  exact if_neg hk0

/-! ### Decoding inverts encoding -/

theorem fits_iff {w : Nat} {v : Wide} : fits w v = true ↔ v.toNat < 2 ^ w := by
  simp [fits]

/-- A host request decodes by its fields, a stream byte by its class or by how full the payload is. -/
theorem decode_encode (hwf : i.wf c = true) (hsel : i.selectedIn c d = true) : decode c d (encode i) = .ok i := by
  cases i with
  | create => exact congrArg _ (decodeRequest_create c _ _ _ _ _)
  | reset => exact congrArg _ (decodeRequest_reset c _ _ _ _ _)
  | destroy => exact congrArg _ (decodeRequest_destroy c _ _ _ _ _)
  | regEvent key h x =>
    obtain ⟨hh, hx⟩ : fits c.handlerW h = true ∧ fits c.contextW x = true := by simpa [Instr.wf] using hwf
    simp [encode, decode, Machine.decodeRequest_regEvent, lowBits_of_lt, fits_iff.mp hh, fits_iff.mp hx]
  | regCommand key h x =>
    obtain ⟨hh, hx⟩ : fits c.handlerW h = true ∧ fits c.contextW x = true := by simpa [Instr.wf] using hwf
    simp [encode, decode, Machine.decodeRequest_regCommand, lowBits_of_lt, fits_iff.mp hh, fits_iff.mp hx]
  | feed len data => exact congrArg _ (decodeRequest_feed c _ _ _ _ _)
  | statusRead sel => exact congrArg _ (decodeRequest_statusRead c _ _ _ _ _)
  | reservedOp7 rsv => exact congrArg _ (decodeRequest_reservedOp7 c _ _ _ _ _ _)
  | illegalRsv op rsv =>
    obtain ⟨hop, hrsv⟩ : op ≠ 7 ∧ rsv ≠ 0 := by simpa [Instr.wf] using hwf
    exact congrArg _ (decodeRequest_illegalRsv c _ _ _ _ _ hop hrsv)
  | stream67Fixed11 =>
    obtain rfl : d = .idle := by simpa [Instr.selectedIn] using hsel
    exact congrArg _ decodeOpcode_67
  | streamFixed0 b =>
    obtain rfl : d = .idle := by simpa [Instr.selectedIn] using hsel
    exact congrArg _ (decodeOpcode_of_fixed0 (by simpa [Instr.wf] using hwf))
  | streamFixedN b =>
    obtain rfl : d = .idle := by simpa [Instr.selectedIn] using hsel
    obtain ⟨hne, n, hn, h1⟩ : b ≠ 0x67 ∧ ∃ n, c.lenOf b = some n ∧ 1 ≤ n := by
      simpa [Instr.wf, Option.any_eq_true] using hwf
    exact congrArg _ (decodeOpcode_of_fixedN hne hn h1)
  | streamInvalid b =>
    obtain rfl : d = .idle := by simpa [Instr.selectedIn] using hsel
    exact congrArg _ (decodeOpcode_of_invalid (by simpa [Instr.wf] using hwf))
  | streamDataBlock b =>
    obtain rfl : d = .idle := by simpa [Instr.selectedIn] using hsel
    exact congrArg _ (decodeOpcode_of_dataBlock (by simpa [Instr.wf] using hwf))
  | streamPayloadByte b =>
    obtain ⟨op, fill, n, rfl, hn, hlt⟩ : ∃ op fill n, d = .accumulating op fill ∧ c.lenOf op = some n ∧ fill < n := by
      cases d <;> simp_all [Instr.selectedIn, Option.any_eq_true]
    simp [encode, decode, decodeStream, hn, hlt, Nat.ne_of_lt hlt]
  | streamPendingByte b =>
    obtain ⟨op, n, rfl, hn⟩ : ∃ op n, d = .accumulating op n ∧ c.lenOf op = some n := by
      cases d <;> simp_all [Instr.selectedIn, Option.any_eq_true]
    simp [encode, decode, decodeStream, hn]

/-! ### What decodes is canonical -/

/-- The count of a FEED's data is its one constraint that the decoder leaves to R159. -/
def FeedCountDiffers (i : Instr) : Prop := ∃ len data, i = .feed len data ∧ data.length ≠ len.toNat

theorem feed_wf_or (len : Half) (data : List Byte) :
    (Instr.feed len data).wf c = true ∨ FeedCountDiffers (.feed len data) := by
  by_cases hlen : data.length = len.toNat
  · exact .inl (by simpa [Instr.wf] using hlen)
  · exact .inr ⟨len, data, rfl, hlen⟩

/-- A host request is selected in every decoder state (R72). -/
theorem decodeRequest_selectedIn (r : Request) : (decodeRequest c r).selectedIn c d = true := by
  rcases Machine.decodeRequest_cases c r with ⟨-, hi⟩ | ⟨-, -, hi⟩ |
    ⟨-, ⟨-, hi⟩ | ⟨-, hi⟩ | ⟨-, hi⟩ | ⟨-, _, _, _, hi⟩ | ⟨-, _, _, _, hi⟩ | ⟨-, hi⟩ | ⟨-, hi⟩⟩ <;> rw [hi] <;> rfl

/-- The sideband wires carry no more than the configured widths, so a registration is well formed (R73). -/
theorem decodeRequest_wf_or (r : Request) : (decodeRequest c r).wf c = true ∨ FeedCountDiffers (decodeRequest c r) := by
  have hfit := Machine.decodeRequest_operandsFit c r
  rcases Machine.decodeRequest_cases c r with ⟨-, hi⟩ | ⟨hop, hrsv, hi⟩ |
    ⟨-, ⟨-, hi⟩ | ⟨-, hi⟩ | ⟨-, hi⟩ | ⟨-, _, _, _, hi⟩ | ⟨-, _, _, _, hi⟩ | ⟨-, hi⟩ | ⟨-, hi⟩⟩ <;> rw [hi] at hfit ⊢
  · exact .inl rfl
  · exact .inl (by simpa [Instr.wf] using ⟨hop, hrsv⟩)
  · exact .inl rfl
  · exact .inl rfl
  · exact .inl rfl
  · exact .inl (by simpa [Instr.wf, fits_iff, Machine.OperandsFit, Machine.entryOf] using hfit)
  · exact .inl (by simpa [Instr.wf, fits_iff, Machine.OperandsFit, Machine.entryOf] using hfit)
  · exact feed_wf_or _ _
  · exact .inl rfl

theorem decodeOpcode_wf (c : Config) (b : Byte) : (decodeOpcode c b).wf c = true := by
  rcases Machine.decodeOpcode_cases c b with ⟨-, hi⟩ | ⟨hne, n, hn, h1, hi⟩ | ⟨hn, hi⟩ | ⟨hk, hi⟩ | ⟨hk, hi⟩ <;> rw [hi]
  · rfl
  · simpa [Instr.wf, hn, h1] using hne
  · obtain ⟨-, k, hk, hk0⟩ := lenOf_eq_some hn
    obtain rfl : k = 0 := Fin.ext hk0
    simp [Instr.wf, hk]
  · simp [Instr.wf, hk]
  · simp [Instr.wf, hk]

theorem decodeOpcode_selectedIn (c : Config) (b : Byte) : (decodeOpcode c b).selectedIn c .idle = true := by
  rcases Machine.decodeOpcode_cases c b with ⟨-, hi⟩ | ⟨-, -, -, -, hi⟩ | ⟨-, hi⟩ | ⟨-, hi⟩ | ⟨-, hi⟩ <;> rw [hi] <;> rfl

/-- A stream byte decodes by its class in Idle, by `fill` against the declared length in Accumulating (R124, R130,
R134). -/
theorem decodeStream_cases (hi : decodeStream c d b = .ok i) :
    (d = .idle ∧ i = decodeOpcode c b) ∨
    ∃ op fill n, d = .accumulating op fill ∧ c.lenOf op = some n ∧
      ((fill = n ∧ i = .streamPendingByte b) ∨ (fill < n ∧ i = .streamPayloadByte b)) := by
  cases d with
  | idle =>
    cases hi
    exact .inl ⟨rfl, rfl⟩
  | accumulating op fill =>
    refine .inr ⟨op, fill, ?_⟩
    unfold decodeStream at hi
    cases hn : c.lenOf op with
    | none => simp [hn] at hi
    | some n =>
      refine ⟨n, rfl, rfl, ?_⟩
      simp only [hn] at hi
      split at hi
      · next hfull => exact .inl ⟨hfull, by simpa using hi.symm⟩
      · split at hi
        · next hlt => exact .inr ⟨hlt, by simpa using hi.symm⟩
        · simp at hi

theorem decodeStream_canonical (hi : decodeStream c d b = .ok i) : i.selectedIn c d = true ∧ i.wf c = true := by
  rcases decodeStream_cases hi with ⟨rfl, rfl⟩ | ⟨op, fill, n, rfl, hn, ⟨rfl, rfl⟩ | ⟨hlt, rfl⟩⟩
  · exact ⟨decodeOpcode_selectedIn c b, decodeOpcode_wf c b⟩
  · exact ⟨by simp [Instr.selectedIn, hn], rfl⟩
  · exact ⟨by simp [Instr.selectedIn, hn, hlt], rfl⟩

theorem decode_canonical {e : Encoded} (hi : decode c d e = .ok i) :
    i.selectedIn c d = true ∧ (i.wf c = true ∨ FeedCountDiffers i) := by
  cases e with
  | request r =>
    obtain rfl : decodeRequest c r = i := by simpa [decode] using hi
    exact ⟨decodeRequest_selectedIn r, decodeRequest_wf_or r⟩
  | byte b => exact (decodeStream_canonical hi).imp_right .inl

end

end Sys2Proof

/-! Proofs about the encoding of the operations (R71 to R79). -/

namespace Sys2Proof.Proofs.Encoding

open Sys2Proof.Machine

/-- Settles O1, by the operation. -/
theorem decodeInvertsEncode : Obligations.DecodeInvertsEncode :=
  fun _ _ _ => decode_encode

/-- Settles O2: what decodes is well formed, so O1's lemma reads it back; a FEED is read back whatever its count. -/
theorem decodedOperationIsCanonical : Obligations.DecodedOperationIsCanonical := by
  intro c d e i hi
  obtain ⟨hsel, hwf⟩ := decode_canonical hi
  refine ⟨hsel, ?_, hwf⟩
  rcases hwf with hwf | ⟨len, data, rfl, -⟩
  · exact decode_encode hwf hsel
  · exact congrArg _ (decodeRequest_feed c _ _ data _ len)

/-- Settles O4: the four operations decode without KEY, and every operation but FEED without LEN. -/
theorem unusedFieldsAreIgnored : Obligations.UnusedFieldsAreIgnored := by
  intro r op key len s
  constructor
  · rintro (rfl | rfl | rfl | rfl)
    · simp only [decodeRequest_create]
    · simp only [decodeRequest_reset]
    · simp only [decodeRequest_destroy]
    · simp only [decodeRequest_feed]
  · intro hop
    simp only [decodeRequest, opField_requestWord, rsvField_requestWord, keyField_requestWord, if_neg hop]

end Sys2Proof.Proofs.Encoding

/-! The records a step sends to the handler agent: which steps send none, and that the one a dispatch sends is one of
the two kinds R110 and R111 allow (R106, R107, R122, R131). -/

namespace Sys2Proof.Machine

section
variable {s t u : State}

/-! ### Steps that send no dispatch record -/

/-- From `s` to `t` records are only appended, none of them to the handler agent. -/
def SendsNoDispatch (s t : State) : Prop := ∃ new, t.out = s.out ++ new ∧ dispatches new = []

theorem sendsNoDispatch_of_silent (hout : t.out = s.out) : SendsNoDispatch s t := ⟨[], by simp [hout], rfl⟩

theorem sendsNoDispatch_of_response {w : Word} (hout : t.out = s.out ++ [.response w]) : SendsNoDispatch s t :=
  ⟨[.response w], hout, rfl⟩

theorem SendsNoDispatch.trans (h : SendsNoDispatch s t) (h' : SendsNoDispatch t u) : SendsNoDispatch s u := by
  obtain ⟨new, hout, hnew⟩ := h
  obtain ⟨new', hout', hnew'⟩ := h'
  exact ⟨new ++ new', by rw [hout', hout, List.append_assoc], by rw [dispatches_append, hnew, hnew', List.append_nil]⟩

theorem report_sendsNoDispatch (code b : Byte) (s : State) : SendsNoDispatch s (report code b s) := ⟨_, rfl, rfl⟩

theorem nextByte_sendsNoDispatch (s : State) : SendsNoDispatch s (nextByte s) := by
  rcases nextByte_cases s with ⟨-, heq⟩ | ⟨-, heq⟩ <;> rw [heq]
  · exact sendsNoDispatch_of_silent rfl
  · exact sendsNoDispatch_of_response rfl

theorem commandOk_sendsNoDispatch (s : State) : SendsNoDispatch s (commandOk s) := by
  rcases commandOk_cases s with ⟨-, heq⟩ | ⟨-, heq⟩ <;> rw [heq]
  · exact nextByte_sendsNoDispatch (clearCommand s)
  · exact nextByte_sendsNoDispatch s

theorem receiveAnswer_sendsNoDispatch (a : Answer) (s : State) : SendsNoDispatch s (receiveAnswer a s) := by
  rcases receiveAnswer_cases a s with ⟨-, heq⟩ | ⟨-, -, heq⟩ | ⟨-, -, heq⟩ | ⟨-, -, heq⟩ <;> rw [heq]
  · exact sendsNoDispatch_of_response rfl
  · exact sendsNoDispatch_of_silent rfl
  · exact commandOk_sendsNoDispatch { s with wait := .none }
  · exact sendsNoDispatch_of_silent rfl

/-- A FEED begins without a record, or is the empty one and ends with its response (R120, R140). -/
theorem execFeed_sendsNoDispatch {len : Half} {data : List Byte} (h : execFeed len data s = .next t) :
    SendsNoDispatch s t := by
  obtain ⟨-, -, h⟩ := checkLive_next h
  split at h
  case isFalse => cases h
  case isTrue =>
    cases h
    split
    · exact sendsNoDispatch_of_response rfl
    · exact sendsNoDispatch_of_silent rfl

theorem exec_request_sendsNoDispatch {c : Config} {r : Request} (h : exec (decodeRequest c r) s = .next t) :
    SendsNoDispatch s t := by
  rcases decodeRequest_cases c r with ⟨-, hi⟩ | ⟨-, -, hi⟩ |
    ⟨-, ⟨-, hi⟩ | ⟨-, hi⟩ | ⟨-, hi⟩ | ⟨-, _, _, _, hi⟩ | ⟨-, _, _, _, hi⟩ | ⟨-, hi⟩ | ⟨-, hi⟩⟩ <;> rw [hi] at h
  · obtain rfl := execReservedOp7_next (rsvField r.word) h
    exact sendsNoDispatch_of_response rfl
  · obtain rfl := execIllegalRsv_next (opField r.word) (rsvField r.word) h
    exact sendsNoDispatch_of_response rfl
  · obtain ⟨-, h⟩ := checkBusy_next h
    cases h
    exact sendsNoDispatch_of_response rfl
  · obtain ⟨-, -, h⟩ := checkLive_next h
    cases h
    exact sendsNoDispatch_of_response rfl
  · obtain ⟨-, -, h⟩ := checkLive_next h
    cases h
    exact sendsNoDispatch_of_response rfl
  · obtain ⟨-, -, h⟩ := checkLive_next h
    split at h <;> cases h <;> exact sendsNoDispatch_of_response rfl
  · obtain ⟨-, -, h⟩ := checkLive_next h
    split at h <;> cases h <;> exact sendsNoDispatch_of_response rfl
  · exact execFeed_sendsNoDispatch h
  · obtain ⟨w, d, rfl⟩ := execStatusRead_next h
    exact sendsNoDispatch_of_response rfl

/-! ### Steps that send at most one, and one that is allowed -/

/-- From `s` to `t` records are only appended, at most one of them a dispatch record, and one the block may send. -/
def SendsAllowed (s t : State) : Prop :=
  ∃ new, t.out = s.out ++ new ∧ (dispatches new).length ≤ 1 ∧ ∀ r ∈ dispatches new, r.Ok s.cfg

theorem SendsNoDispatch.sendsAllowed (h : SendsNoDispatch s t) : SendsAllowed s t := by
  obtain ⟨new, hout, hnew⟩ := h
  exact ⟨new, hout, by simp [hnew], by simp [hnew]⟩

/-- A dispatch whose record is allowed whichever entry matches (R107), and whose Ok goes on without another. -/
theorem dispatch_sendsAllowed {k : Kind} {key : Byte} {p : List Byte} {onOk : State → State}
    (hrec : ∀ e, (dispatchRecord k key p e).Ok s.cfg) (hok : SendsNoDispatch s (onOk s)) :
    SendsAllowed s (dispatch k key p onOk s) := by
  rcases dispatch_cases k key p onOk s with ⟨e, -, heq⟩ | ⟨-, heq⟩ <;> rw [heq]
  · refine ⟨[.dispatch (dispatchRecord k key p e)], rfl, le_rfl, fun r hr => ?_⟩
    obtain rfl : r = dispatchRecord k key p e := by simpa [dispatches] using hr
    exact hrec e
  · exact hok.sendsAllowed

/-- An event carries key EVT_CHUNK and no payload (R110, R122). -/
theorem dispatchRecord_event_ok (c : Config) (e : Entry) : (dispatchRecord .event evtChunk [] e).Ok c :=
  ⟨rfl, Nat.zero_le _, rfl, rfl⟩

/-- A command carries as many bytes as its opcode declares, which fit the accumulator (R111, R131). -/
theorem dispatchRecord_command_ok {c : Config} {op : Byte} {p : List Byte} (hp : c.lenOf op = some p.length)
    (e : Entry) : (dispatchRecord .command op p e).Ok c :=
  ⟨rfl, lenOf_le_accCap hp, hp⟩

theorem dispatch_event_sendsAllowed (s : State) : SendsAllowed s (dispatch .event evtChunk [] eventOk s) :=
  dispatch_sendsAllowed (dispatchRecord_event_ok s.cfg) (sendsNoDispatch_of_silent rfl)

theorem dispatch_command_sendsAllowed {op : Byte} {p : List Byte} (hp : s.cfg.lenOf op = some p.length) :
    SendsAllowed s (dispatch .command op p commandOk s) :=
  dispatch_sendsAllowed (dispatchRecord_command_ok hp) (commandOk_sendsNoDispatch s)

/-- A payload byte dispatches its command only at the declared length, with the whole payload (R131). -/
theorem execStreamPayloadByte_sendsAllowed {b : Byte} (h : execStreamPayloadByte b s = .next t) :
    SendsAllowed s t := by
  unfold execStreamPayloadByte at h
  split at h
  case isFalse => cases h
  case isTrue =>
    cases h
    split
    · next hfull =>
      exact dispatch_command_sendsAllowed (s := appendByte b s) (hfull.trans (congrArg some (payload_length _).symm))
    · exact (nextByte_sendsNoDispatch (appendByte b s)).sendsAllowed

/-- Only a Fixed(0) opcode and the last byte of a payload dispatch a command (R125, R131). -/
theorem exec_fetched_sendsAllowed {i : Instr} (hi : fetchStream s = .ok i) (h : exec i s = .next t) :
    SendsAllowed s t := by
  cases hv : s.curValid with
  | false =>
    obtain ⟨b, -, rfl⟩ := fetchStream_idle hv hi
    rcases decodeOpcode_cases s.cfg b with ⟨-, hi⟩ | ⟨-, -, -, -, hi⟩ | ⟨hn, hi⟩ | ⟨-, hi⟩ | ⟨-, hi⟩ <;>
      rw [hi] at h <;> cases h
    · exact (nextByte_sendsNoDispatch (startCommand 0x67 s)).sendsAllowed
    · exact (nextByte_sendsNoDispatch (startCommand b s)).sendsAllowed
    · exact dispatch_command_sendsAllowed hn
    · exact ((report_sendsNoDispatch _ b s).trans (nextByte_sendsNoDispatch _)).sendsAllowed
    · exact ((report_sendsNoDispatch _ b s).trans (nextByte_sendsNoDispatch _)).sendsAllowed
  | true =>
    obtain ⟨b, n, -, -, ⟨-, rfl⟩ | ⟨-, rfl⟩⟩ := fetchStream_accumulating hv hi
    · cases h
      exact (sendsNoDispatch_of_response rfl).sendsAllowed
    · exact execStreamPayloadByte_sendsAllowed h

theorem step_sendsAllowed (h : step s = .next t) : SendsAllowed s t := by
  rcases step_cases s with
    ⟨-, -, ⟨-, hs⟩ | ⟨r, rest, -, hs⟩⟩ | ⟨-, ⟨-, hs⟩ | ⟨a, rest, -, hs⟩ | ⟨r, rest, -, hs⟩⟩ |
    ⟨-, -, ⟨-, hs⟩ | ⟨-, i, hi, hs⟩ | ⟨-, f, -, hs⟩⟩ <;> rw [hs] at h
  · cases h
    exact (sendsNoDispatch_of_silent rfl).sendsAllowed
  · exact SendsNoDispatch.sendsAllowed (exec_request_sendsNoDispatch (s := { s with inbox := rest }) h)
  · cases h
    exact (sendsNoDispatch_of_silent rfl).sendsAllowed
  · cases h
    exact SendsNoDispatch.sendsAllowed (receiveAnswer_sendsNoDispatch a { s with agent := rest })
  · exact SendsNoDispatch.sendsAllowed (exec_request_sendsNoDispatch (s := { s with agent := rest }) h)
  · cases h
    exact dispatch_event_sendsAllowed s
  · exact exec_fetched_sendsAllowed hi h
  · cases h

end

end Sys2Proof.Machine

/-! The dispatch records on the output channel (R81). -/

namespace Sys2Proof.Proofs.Encoding

open Sys2Proof.Machine

/-- Settles O41, by whose turn it is; the invariant is not needed, since each dispatch is guarded by the length its
record must have. -/
theorem sentRecordsAreWellFormed : Obligations.SentRecordsAreWellFormed :=
  fun _ _ _ h => step_sendsAllowed h

end Sys2Proof.Proofs.Encoding

/-! The response words of a FEED as signed numbers (R77), and the fields of the status words (R84 to R87). -/

namespace Sys2Proof.Machine

section
variable {s : State}

/-! ### Response words (R75, R77) -/

theorem failWord_toInt (i : Half) : (failWord i).toInt = -((i.toNat : Int) + 1) := by
  have hi := i.isLt
  exact BitVec.toInt_ofInt_eq_self (by omega) (by omega) (by omega)

/-- The word of a length has its sign bit clear. -/
theorem lengthWord_toInt (l : Half) : (l.setWidth 32 : Word).toInt = l.toNat := by
  have hl := l.isLt
  rw [BitVec.toInt_setWidth, Int.bmod_eq_of_le (by omega) (by omega)]

theorem respSentinel_toInt : respSentinel.toInt = -(2 ^ 31) := by decide

theorem respIllegal_toInt : respIllegal.toInt = -(2 ^ 31) + 1 := by decide

theorem ne_of_toInt_ne {v w : Word} (h : v.toInt ≠ w.toInt) : v ≠ w := fun heq => h (congrArg _ heq)

/-! ### Status words, by field -/

theorem extractLsb'_eq_of_getLsbD {n start len : Nat} {w : BitVec n} {v : BitVec len}
    (h : ∀ i, i < len → w.getLsbD (start + i) = v.getLsbD i) : w.extractLsb' start len = v :=
  BitVec.eq_of_getLsbD_eq fun i hi => by simp [hi, h i hi]

/-- Word 0 (R84). -/
theorem statusMain_fields (s : State) :
    (statusMain s).extractLsb' 0 1 = s.life.bit ∧ (statusMain s).extractLsb' 1 1 = BitVec.ofBool s.curValid ∧
    (statusMain s).extractLsb' 2 1 = BitVec.ofBool s.busy ∧ (statusMain s).extractLsb' 3 2 = s.wait.bits ∧
    (statusMain s).extractLsb' 5 3 = 0 ∧ (statusMain s).extractLsb' 8 8 = (if s.curValid then s.curOp else 0) ∧
    (statusMain s).extractLsb' 16 8 = BitVec.ofNat 8 s.fill.val ∧ (statusMain s).extractLsb' 24 8 = 0 := by
  refine ⟨?_, ?_, ?_, ?_, ?_, ?_, ?_, ?_⟩ <;> refine extractLsb'_eq_of_getLsbD fun i hi => ?_ <;>
    grind [statusMain_getLsbD]

theorem wait_bits_toNat (w : Wait) : w.bits.toNat = match w with
    | .none => 0
    | .event => 1
    | .command => 2 := by
  cases w <;> rfl

/-- Words 4 to 7 (R86). -/
theorem statusAcc_byte (s : State) (k : Nat) {m : Nat} (hm : m ≤ 3) :
    (statusAcc s k).extractLsb' (8 * m) 8 = shownByte s (4 * k + m) := by
  refine extractLsb'_eq_of_getLsbD fun i hi => ?_
  grind [statusAcc_getLsbD]

theorem statusLive_of_acc {sel : Byte} {k : Nat} (hk : k ≤ 3) (hsel : sel.toNat = 4 + k) :
    statusLive s sel = statusAcc s k := by
  rw [statusLive, hsel]
  interval_cases k <;> rfl

theorem statusCount_toNat {sel : Byte} {n : Nat} (h : n < 2 ^ 32) : (statusCount sel n).toNat = n := by
  rw [statusCount_of_lt h, BitVec.toNat_ofNat, Nat.mod_eq_of_lt h]

/-- Word 8 while a FEED runs (R87). -/
theorem statusFeed_getLsbD (hb : s.busy = true) (i : Nat) :
    (statusFeed s).getLsbD i = if i < 16 then s.feedIdx.getLsbD i else s.feedLen.getLsbD (i - 16) := by
  rw [statusFeed, if_pos hb]
  change BitVec.getLsbD (w := 16 + 16) (s.feedLen ++ s.feedIdx) i = _
  rw [BitVec.getLsbD_append]

theorem statusFeed_fields (hb : s.busy = true) :
    (statusFeed s).extractLsb' 16 16 = s.feedLen ∧ (statusFeed s).extractLsb' 0 16 = s.feedIdx := by
  constructor <;> refine extractLsb'_eq_of_getLsbD fun i hi => ?_ <;> grind [statusFeed_getLsbD]

/-- Selects past the last word (R87). -/
theorem statusLive_of_ge {sel : Byte} (hsel : 9 ≤ sel.toNat) : statusLive s sel = 0 := by
  obtain ⟨n, hn⟩ := Nat.exists_eq_add_of_le' hsel
  rw [statusLive, hn]
  rfl

theorem statusUninit_word0 (free : Word) : (statusUninit free 0).getLsbD 0 = false := by
  rw [statusUninit, if_pos rfl, BitVec.getLsbD_and]
  exact Bool.and_false _

/-! ### Reported bytes (R126, R127) -/

/-- A report, then the next byte: the index goes on, or the response follows the report. -/
theorem nextByte_report (code b : Byte) (s : State) :
    (s.feedIdx.toNat + 1 < s.feedLen.toNat → nextByte (report code b s) = { s with
      feedIdx := s.feedIdx + 1, phase := .event
      out := s.out ++ [.report { code := code, byte := b, index := s.feedIdx }] }) ∧
    (s.feedLen.toNat ≤ s.feedIdx.toNat + 1 → nextByte (report code b s) = { s with
      feedsDone := s.feedsDone + 1, busy := false
      out := s.out ++ [.report { code := code, byte := b, index := s.feedIdx },
        .response (s.feedLen.setWidth 32)] }) := by
  refine ⟨fun hmore => ?_, fun hlast => ?_⟩
  · exact nextByte_of_more (s := report code b s) hmore
  · rw [nextByte_of_last (s := report code b s) (Nat.not_lt.mpr hlast)]
    simp [finishFeed, respond, emit, report]

end

end Sys2Proof.Machine

/-! Proofs about the words and records of the channels: FEED results, reports, status words, ROM entries, dispatch
codes and the ILLEGAL answer (R75 to R87, R126, R155, R178). -/

namespace Sys2Proof.Proofs.Encoding

open Sys2Proof.Machine

/-- Settles O7: read as signed numbers, failures are negative and no less than −65536, lengths are not negative, and the
other two words lie far below both. -/
theorem feedResultWords : Obligations.FeedResultWords := by
  refine ⟨fun i _ => failWord_toInt i, lengthWord_toInt, respSentinel_toInt, fun i l => ?_⟩
  have hi := i.isLt
  have hfail := failWord_toInt i
  have hlength := lengthWord_toInt l
  have hsentinel := respSentinel_toInt
  have hillegal := respIllegal_toInt
  refine ⟨?_, ?_, ?_, ?_, ?_, ?_⟩ <;> apply ne_of_toInt_ne <;> omega

/-- Settles O18: each of the two operations is its report and then the next byte. -/
theorem unknownAndDataBlockAreReportedAndSkipped : Obligations.UnknownAndDataBlockAreReportedAndSkipped := by
  intro b s
  obtain ⟨hmore, hlast⟩ := nextByte_report codeUnknown b s
  obtain ⟨hmore', hlast'⟩ := nextByte_report codeDataBlock b s
  exact ⟨fun h => ⟨congrArg _ (hmore h), congrArg _ (hmore' h)⟩,
    fun h => ⟨congrArg _ (hlast h), congrArg _ (hlast' h)⟩⟩

/-- Settles O30: the word sent is the selected status word, read by its fields. -/
theorem statusReadShowsTheState : Obligations.StatusReadShowsTheState := by
  intro s sel hl
  refine ⟨statusLive s sel, execStatusRead_of_live hl sel, ?_, ?_, ?_, ?_, ?_, ?_, ?_, statusLive_of_ge⟩
  · rintro rfl
    obtain ⟨hlife, hvalid, hbusy, hwait, hzero, hop, hfill, hhigh⟩ := statusMain_fields s
    have hlt := s.fill.isLt
    refine ⟨hlife.trans (by rw [hl]; rfl), hvalid, hbusy, ?_, hzero, hop, ?_, hhigh⟩
    · exact (congrArg _ hwait).trans (wait_bits_toNat s.wait)
    · refine (congrArg _ hfill).trans ?_
      rw [BitVec.toNat_ofNat, Nat.mod_eq_of_lt (by omega)]
  · rintro rfl
    rfl
  · rintro rfl h
    exact statusCount_toNat h
  · rintro rfl h
    exact statusCount_toNat h
  · intro k m hk hm hsel
    rw [statusLive_of_acc hk hsel, statusAcc_byte s k hm, shownByte]
  · rintro rfl hb
    exact statusFeed_fields hb
  · rintro rfl hb
    exact if_neg (by simp [hb])

/-- Settles O5: the entries are 256, and a ROM with one that has no class has no class list. -/
theorem romEntryEncoding : Obligations.RomEntryEncoding := by
  refine ⟨rfl, rfl, by decide, ?_, ?_, by decide, ?_⟩
  · intro k
    cases k with
    | invalid => rfl
    | dataBlock => rfl
    | fixed n => revert n; decide
  · have hinv : ∀ e : Byte, (romClass e).all (fun k => romEntry k == e) = true := by decide
    intro e k hk
    simpa [hk] using hinv e
  · rintro rom evtCap cmdCap handlerW contextW ⟨e, he, hnone⟩
    refine Option.eq_none_iff_forall_ne_some.mpr fun c hc => ?_
    obtain ⟨classes, hm, -⟩ := Scope.build_eq_some hc
    exact (Scope.exists_classes_iff rom).mp ⟨classes, hm⟩ e he hnone

/-- Settles O13: a one-bit code has two values. -/
theorem dispatchChannelCodes : Obligations.DispatchChannelCodes :=
  ⟨rfl, rfl, rfl, rfl, answer_ofBit_bit, by decide⟩

/-- Settles O15: a Fail is the answer that aborts, whatever was out. -/
theorem handlerFailureAborts : Obligations.HandlerFailureAborts := by
  intro s rest hw ha
  rw [step_agent hw, agentTurn_of_answer ha]
  rfl

/-- Settles O31: in Uninit the word is a free value, whose bit 0 is masked for word 0. -/
theorem statusReadInUninit : Obligations.StatusReadInUninit := by
  intro s sel hl
  refine ⟨_, execStatusRead_of_uninit hl sel, ?_⟩
  rintro rfl
  exact statusUninit_word0 _

/-- Settles O32: neither operation has a check to fail but the busy check. -/
theorem illegalRequestsAnswerIllegal : Obligations.IllegalRequestsAnswerIllegal := by
  intro s op rsv hb
  refine ⟨checkBusy_of_not_busy hb, ?_⟩
  change execIllegalRsv op rsv s = .next (respond respIllegal s)
  rw [execIllegalRsv, checkBusy_of_not_busy hb, ite_self]

end Sys2Proof.Proofs.Encoding

/-! Runs of the machine, and the parts of a byte step that the arbiter joins: what a byte's own action does before and
after its command dispatch, and what an answered dispatch comes to (R104, R121, R122, R125, R131). -/

namespace Sys2Proof.Machine

section
variable {s t u v : State}

/-! ### Runs -/

/-- Some number of steps leads from `s` to `t`. -/
def Reaches (s t : State) : Prop := ∃ n, stepN n s = .next t

theorem Reaches.refl (s : State) : Reaches s s := ⟨0, rfl⟩

theorem Reaches.head (h : step s = .next t) (ht : Reaches t u) : Reaches s u := by
  obtain ⟨n, hn⟩ := ht
  exact ⟨n + 1, by simpa [stepN, h] using hn⟩

theorem reaches_of_step (h : step s = .next t) : Reaches s t := .head h (.refl t)

theorem stepN_succ_next {n : Nat} (h : stepN (n + 1) s = .next t) : ∃ r, step s = .next r ∧ stepN n r = .next t := by
  unfold stepN at h
  split at h
  · next r hr => exact ⟨r, hr, h⟩
  · cases h
  · cases h

/-- A property that every step keeps holds of what is reached. -/
theorem Reaches.keeps {P : State → Prop} (hP : ∀ s t, P s → step s = .next t → P t) (h : Reaches s t) (hs : P s) :
    P t := by
  obtain ⟨n, hn⟩ := h
  induction n generalizing s with
  | zero =>
    cases hn
    exact hs
  | succ n ih =>
    obtain ⟨r, hr, hn⟩ := stepN_succ_next hn
    exact ih (hP s r hs hr) hn

theorem Reaches.trans (h : Reaches s t) (ht : Reaches t u) : Reaches s u := by
  obtain ⟨n, hn⟩ := h
  induction n generalizing s with
  | zero =>
    cases hn
    exact ht
  | succ n ih =>
    obtain ⟨r, hr, hn⟩ := stepN_succ_next hn
    exact .head hr (ih hn)

theorem Reaches.controlOk (h : Reaches s t) (hs : s.ControlOk) : t.ControlOk :=
  h.keeps (fun _ _ => step_controlOk) hs

/-! ### What is kept and sent within a FEED -/

/-- From `s` to `t` the fields are kept that a running FEED keeps from one byte step to the next (R26, R30, R54,
R64). -/
structure SameFeed (s t : State) : Prop where
  busy : t.busy = s.busy
  wait : t.wait = s.wait
  feedLen : t.feedLen = s.feedLen
  feedsDone : t.feedsDone = s.feedsDone
  inbox : t.inbox = s.inbox
  evtSeq : t.evtSeq = s.evtSeq
  cmdSeq : t.cmdSeq = s.cmdSeq

theorem SameFeed.trans (h : SameFeed s t) (h' : SameFeed t u) : SameFeed s u :=
  ⟨h'.busy.trans h.busy, h'.wait.trans h.wait, h'.feedLen.trans h.feedLen, h'.feedsDone.trans h.feedsDone,
    h'.inbox.trans h.inbox, h'.evtSeq.trans h.evtSeq, h'.cmdSeq.trans h.cmdSeq⟩

theorem SameFeed.lookup (h : SameFeed s t) (k : Kind) (key : Byte) : t.lookup k key = s.lookup k key :=
  lookup_congr h.evtSeq h.cmdSeq k key

@[simp] theorem responses_append (l l' : List Output) : responses (l ++ l') = responses l ++ responses l' :=
  List.filterMap_append

/-- From `s` to `t` records are appended, no response among them, and `ds` are the dispatch records among them. -/
def Sends (s t : State) (ds : List DispatchRecord) : Prop :=
  ∃ new, t.out = s.out ++ new ∧ responses new = [] ∧ dispatches new = ds

theorem sends_nil (hout : t.out = s.out) : Sends s t [] := ⟨[], by simp [hout], rfl, rfl⟩

theorem Sends.trans {ds ds' : List DispatchRecord} (h : Sends s t ds) (h' : Sends t u ds') : Sends s u (ds ++ ds') := by
  obtain ⟨new, hout, hresp, rfl⟩ := h
  obtain ⟨new', hout', hresp', rfl⟩ := h'
  exact ⟨new ++ new', by rw [hout', hout, List.append_assoc], by rw [responses_append, hresp, hresp']; rfl,
    dispatches_append new new'⟩

/-- The number of event records among dispatch records. -/
def eventCount (ds : List DispatchRecord) : Nat := (ds.filter (fun r => r.kind == .event)).length

theorem eventsSent_eq (l : List Output) : eventsSent l = eventCount (dispatches l) := rfl

/-- From `s` to `t` records are appended, no response among them, and `m` event records among them. -/
def SendsEvents (m : Nat) (s t : State) : Prop := ∃ ds, Sends s t ds ∧ eventCount ds = m

theorem sendsEvents_zero (h : Sends s t []) : SendsEvents 0 s t := ⟨[], h, rfl⟩

theorem SendsEvents.trans {m n : Nat} (h : SendsEvents m s t) (h' : SendsEvents n t u) : SendsEvents (m + n) s u := by
  obtain ⟨ds, hs, rfl⟩ := h
  obtain ⟨ds', hs', rfl⟩ := h'
  exact ⟨ds ++ ds', hs.trans hs', by simp [eventCount]⟩

/-- A part of a byte step that takes no answer, sends no dispatch record, and stays at its byte. -/
structure Quiet (s t : State) : Prop where
  same : SameFeed s t
  feedIdx : t.feedIdx = s.feedIdx
  agent : t.agent = s.agent
  sends : Sends s t []

theorem Quiet.trans (h : Quiet s t) (h' : Quiet t u) : Quiet s u :=
  ⟨h.same.trans h'.same, h'.feedIdx.trans h.feedIdx, h'.agent.trans h.agent, h.sends.trans h'.sends⟩

section
variable (s : State)

theorem quiet_refl : Quiet s s := ⟨⟨rfl, rfl, rfl, rfl, rfl, rfl, rfl⟩, rfl, rfl, sends_nil rfl⟩

theorem eventOk_quiet : Quiet s (eventOk s) := ⟨⟨rfl, rfl, rfl, rfl, rfl, rfl, rfl⟩, rfl, rfl, sends_nil rfl⟩

theorem startCommand_quiet (op : Byte) : Quiet s (startCommand op s) :=
  ⟨⟨rfl, rfl, rfl, rfl, rfl, rfl, rfl⟩, rfl, rfl, sends_nil rfl⟩

theorem clearCommand_quiet : Quiet s (clearCommand s) :=
  ⟨⟨rfl, rfl, rfl, rfl, rfl, rfl, rfl⟩, rfl, rfl, sends_nil rfl⟩

theorem appendByte_quiet (b : Byte) : Quiet s (appendByte b s) :=
  ⟨⟨rfl, rfl, rfl, rfl, rfl, rfl, rfl⟩, rfl, rfl, sends_nil rfl⟩

theorem report_quiet (code b : Byte) : Quiet s (report code b s) :=
  ⟨⟨rfl, rfl, rfl, rfl, rfl, rfl, rfl⟩, rfl, rfl, ⟨_, rfl, rfl, rfl⟩⟩

end

/-! ### The byte's own action -/

theorem not_pending_of_idle (hv : s.curValid = false) : ¬ s.Pending := by
  simp [State.Pending, hv]

theorem startCommand_not_pending {op : Byte} {n : Nat} (hn : s.cfg.lenOf op = some n) (h1 : 1 ≤ n) :
    ¬ (startCommand op s).Pending := by
  rintro ⟨-, hfull⟩
  obtain rfl : n = 0 := by simpa [hn] using hfull
  omega

/-- After a successful command nothing is pending, and the byte step is over (R125, R132). -/
theorem commandOk_eq_nextByte (s : State) : ∃ u, Quiet s u ∧ ¬ u.Pending ∧ commandOk s = nextByte u := by
  rcases commandOk_cases s with ⟨-, heq⟩ | ⟨hv, heq⟩
  · exact ⟨_, clearCommand_quiet s, not_pending_of_idle rfl, heq⟩
  · exact ⟨s, quiet_refl s, not_pending_of_idle hv, heq⟩

/-- The payload byte's operation, by whether it completes the payload (R130, R131). -/
theorem execStreamPayloadByte_of_lt {b : Byte} (hlt : s.fill.val < accCap) :
    execStreamPayloadByte b s = .next
      (if s.cfg.lenOf s.curOp = some (s.fill.val + 1)
        then dispatch .command s.curOp (appendByte b s).payload commandOk (appendByte b s)
        else nextByte (appendByte b s)) := by
  simp [execStreamPayloadByte, hlt, fill_succ_val hlt]

/-- What the operation of a fetched byte comes to: the end of a FEED that finds a command completion-pending, or a quiet
part and then the next byte, with nothing pending, or a command dispatch (R124 to R134). -/
theorem exec_fetched_cases {i : Instr} (hi : fetchStream s = .ok i) :
    (s.Pending ∧ exec i s = .next (abortFeed respSentinel s)) ∨
    ∃ u, Quiet s u ∧
      ((¬ u.Pending ∧ exec i s = .next (nextByte u)) ∨
        ∃ key p, exec i s = .next (dispatch .command key p commandOk u)) := by
  rcases fetchStream_cases hi with
    ⟨hv, rfl | ⟨b, n, hn, h1, rfl⟩ | ⟨b, rfl⟩ | ⟨b, rfl⟩ | ⟨b, rfl⟩⟩ | ⟨hv, b, n, hn, ⟨hfill, rfl⟩ | ⟨hlt, rfl⟩⟩
  · exact .inr ⟨_, startCommand_quiet s 0x67, .inl ⟨startCommand_not_pending (lenOf_67 s.cfg) (by decide), rfl⟩⟩
  · exact .inr ⟨_, startCommand_quiet s b, .inl ⟨startCommand_not_pending hn h1, rfl⟩⟩
  · exact .inr ⟨s, quiet_refl s, .inr ⟨b, [], rfl⟩⟩
  · exact .inr ⟨_, report_quiet s codeUnknown b, .inl ⟨not_pending_of_idle hv, rfl⟩⟩
  · exact .inr ⟨_, report_quiet s codeDataBlock b, .inl ⟨not_pending_of_idle hv, rfl⟩⟩
  · exact .inl ⟨⟨hv, hfill ▸ hn⟩, rfl⟩
  · have hcap : s.fill.val < accCap := lt_of_lt_of_le hlt (lenOf_le_accCap hn)
    have hrun : exec (.streamPayloadByte b) s = _ := execStreamPayloadByte_of_lt (b := b) hcap
    refine .inr ⟨_, appendByte_quiet s b, ?_⟩
    split at hrun
    · exact .inr ⟨_, _, hrun⟩
    · next hshort =>
      refine .inl ⟨fun ⟨_, hfull⟩ => hshort ?_, hrun⟩
      simpa [fill_succ_val hcap] using hfull

/-- The byte step stands before its event dispatch (R122). -/
structure AtByte (s : State) : Prop where
  control : s.ControlOk
  busy : s.busy = true
  wait : s.wait = .none
  phase : s.phase = .event

theorem step_event (hw : s.wait = .none) (hb : s.busy = true) (hp : s.phase = .event) :
    step s = .next (dispatch .event evtChunk [] eventOk s) := by
  rw [step_block hw hb, blockTurn, hp]

theorem AtByte.feedIdx_lt (h : AtByte s) : s.feedIdx.toNat < s.feedLen.toNat := by
  obtain ⟨-, -, hlt⟩ := h.control.feed h.busy
  exact hlt

/-- After the event, the step runs the operation that the byte is fetched as (R121). -/
theorem step_action (h : s.ControlOk) (hb : s.busy = true) (hw : s.wait = .none) (hp : s.phase = .action) :
    ∃ i, fetchStream s = .ok i ∧ step s = exec i s := by
  obtain ⟨-, hlen, hidx⟩ := h.feed hb
  obtain ⟨i, hi⟩ := fetchStream_ok (h.decoder_of_busy hb) (hlen.symm ▸ hidx)
  exact ⟨i, hi, by rw [step_block hw hb, blockTurn, hp]; simp only [hi]⟩

/-- A byte step that is over leads to the next byte, or was the last (R35, R121). -/
theorem byte_over (h : AtByte s) (hs : SameFeed s v) (hi : v.feedIdx = s.feedIdx) (hr : Reaches s (nextByte v)) :
    (AtByte (nextByte v) ∧ SameFeed s (nextByte v) ∧ Sends v (nextByte v) [] ∧
      (nextByte v).feedIdx.toNat = s.feedIdx.toNat + 1) ∨
    (s.feedIdx.toNat + 1 = s.feedLen.toNat ∧ Reaches s (finishFeed v)) := by
  have hcontrol := hr.controlOk h.control
  rcases nextByte_cases v with ⟨hmore, heq⟩ | ⟨hlast, heq⟩ <;> rw [heq] at hr hcontrol ⊢
  · have hnext : SameFeed v { v with feedIdx := v.feedIdx + 1, phase := .event } := ⟨rfl, rfl, rfl, rfl, rfl, rfl, rfl⟩
    exact .inl ⟨⟨hcontrol, hs.busy.trans h.busy, hs.wait.trans h.wait, rfl⟩, hs.trans hnext, sends_nil rfl,
      (feedIdx_succ_toNat hmore).trans (by rw [hi])⟩
  · rw [hi, hs.feedLen] at hlast
    exact .inr ⟨Nat.le_antisymm h.feedIdx_lt hlast, hr⟩

/-! ### A dispatch and its answer -/

/-- At least `n` answers are listed for the handler agent, and nothing else (R108). -/
def Answers (n : Nat) (s : State) : Prop := ∃ as : List Answer, s.agent = as.map .answer ∧ n ≤ as.length

theorem Answers.congr {n : Nat} (h : Answers n s) (ha : t.agent = s.agent) : Answers n t := by
  obtain ⟨as, has, hn⟩ := h
  exact ⟨as, ha.trans has, hn⟩

theorem Answers.mono {m n : Nat} (h : Answers n s) (hmn : m ≤ n) : Answers m s := by
  obtain ⟨as, has, hn⟩ := h
  exact ⟨as, has, hmn.trans hn⟩

/-- A part of a byte step that stays at its byte, sends `m` event records, and leaves at least `n` answers
listed. -/
structure Handled (m n : Nat) (s t : State) : Prop where
  same : SameFeed s t
  feedIdx : t.feedIdx = s.feedIdx
  sends : SendsEvents m s t
  answers : Answers n t

theorem Quiet.handled {n : Nat} (h : Quiet s t) (ha : Answers n s) : Handled 0 n s t :=
  ⟨h.same, h.feedIdx, sendsEvents_zero h.sends, ha.congr h.agent⟩

theorem Handled.trans {l m n k : Nat} (h : Handled m k s t) (h' : Handled l n t u) : Handled (m + l) n s u :=
  ⟨h.same.trans h'.same, h'.feedIdx.trans h.feedIdx, h.sends.trans h'.sends, h'.answers⟩

theorem Handled.mono {l m n : Nat} (h : Handled l n s t) (hmn : m ≤ n) : Handled l m s t :=
  ⟨h.same, h.feedIdx, h.sends, h.answers.mono hmn⟩

/-- What the caller of the arbiter does with the Ok to a dispatch of this kind (R122, R125, R132). -/
def Kind.onOk : Kind → State → State
  | .event => eventOk
  | .command => commandOk

theorem receiveAnswer_ok {k : Kind} (hw : s.wait = k.wait) :
    receiveAnswer .ok s = k.onOk { s with wait := .none } := by
  cases k <;> simp [receiveAnswer, hw, Kind.wait, Kind.onOk]

theorem Kind.wait_ne_none (k : Kind) : k.wait ≠ .none := by
  cases k <;> simp [Kind.wait]

/-- The event records of a dispatch: one for an event that an entry matches, none for a command. -/
def Kind.events (k : Kind) (e : Option Entry) : Nat :=
  match k with
  | .event => if e.isSome then 1 else 0
  | .command => 0

theorem eventCount_dispatchRecord (k : Kind) (key : Byte) (p : List Byte) (e : Entry) :
    eventCount [dispatchRecord k key p e] = k.events (some e) := by
  cases k <;> simp [eventCount, dispatchRecord, Kind.events]

/-- A dispatch that is answered goes on with its caller, or fails the FEED; it takes at most one answer (R104 to
R109). -/
theorem dispatch_reaches {k : Kind} {key : Byte} {p : List Byte} {n : Nat}
    (hstep : step s = .next (dispatch k key p k.onOk u)) (hw : u.wait = .none) (ha : Answers (n + 1) u) :
    ∃ v, Handled (k.events (u.lookup k key)) n u v ∧ (Reaches s (k.onOk v) ∨ Reaches s (failFeed v)) := by
  rcases dispatch_cases k key p k.onOk u with ⟨e, he, heq⟩ | ⟨hnone, heq⟩ <;> rw [heq] at hstep
  · obtain ⟨as, has, hn⟩ := ha
    cases as with
    | nil => simp at hn
    | cons a rest =>
      have hanswer : step (sendDispatch k key p e u) =
          .next (receiveAnswer a { sendDispatch k key p e u with agent := rest.map .answer }) := by
        rw [step_agent k.wait_ne_none, agentTurn_of_answer (s := sendDispatch k key p e u) has]
      refine ⟨{ sendDispatch k key p e u with agent := rest.map .answer, wait := .none },
        ⟨⟨rfl, hw.symm, rfl, rfl, rfl, rfl, rfl⟩, rfl, ⟨[dispatchRecord k key p e], ⟨_, rfl, rfl, rfl⟩, ?_⟩,
          rest, rfl, by simpa using hn⟩, ?_⟩
      · rw [he, eventCount_dispatchRecord]
      · cases a with
        | ok =>
          rw [receiveAnswer_ok rfl] at hanswer
          exact .inl (.head hstep (reaches_of_step hanswer))
        | fail => exact .inr (.head hstep (reaches_of_step hanswer))
  · have hzero : k.events (u.lookup k key) = 0 := by
      rw [hnone]
      cases k <;> rfl
    exact ⟨u, hzero ▸ (quiet_refl u).handled (ha.mono (Nat.le_succ n)), .inl (reaches_of_step hstep)⟩

end

end Sys2Proof.Machine

/-! Whole FEEDs: one byte step with its dispatches answered or unmatched, the loop over the bytes, and the request that
starts it (R105, R120, R121, R136, R139, R140). -/

namespace Sys2Proof.Machine

section
variable {s t u v : State}

/-! ### One byte step -/

/-- The number of event dispatches that `n` bytes make (R105, R122). -/
def State.eventsOf (s : State) (n : Nat) : Nat := if (s.lookup .event evtChunk).isSome then n else 0

theorem SameFeed.eventsOf (h : SameFeed s t) (n : Nat) : t.eventsOf n = s.eventsOf n := by
  rw [State.eventsOf, State.eventsOf, h.lookup]

theorem eventsOf_add (s : State) (m n : Nat) : s.eventsOf m + s.eventsOf n = s.eventsOf (m + n) := by
  unfold State.eventsOf
  split <;> rfl

/-- From `s`, the byte step is over after `v`, or ends the FEED at its byte with a failure or SENTINEL (R137). -/
def OverOrEnds (s v : State) : Prop :=
  Reaches s (nextByte v) ∨ ∃ w, (w = failWord s.feedIdx ∨ w = respSentinel) ∧ Reaches s (abortFeed w v)

/-- The byte's own action, with its command dispatch answered if it makes one (R124 to R134). -/
theorem action_reaches {n : Nat} (hc : s.ControlOk) (hb : s.busy = true) (hw : s.wait = .none) (hp : s.phase = .action)
    (ha : Answers (n + 1) s) : ∃ v, Handled 0 n s v ∧ OverOrEnds s v := by
  obtain ⟨i, hi, hstep⟩ := step_action hc hb hw hp
  rcases exec_fetched_cases hi with ⟨-, hexec⟩ | ⟨u, hq, ⟨-, hexec⟩ | ⟨key, p, hexec⟩⟩ <;> rw [hexec] at hstep
  · exact ⟨s, (quiet_refl s).handled (ha.mono (Nat.le_succ n)), .inr ⟨_, .inr rfl, reaches_of_step hstep⟩⟩
  · exact ⟨u, hq.handled (ha.mono (Nat.le_succ n)), .inl (reaches_of_step hstep)⟩
  · have hu := hq.handled ha
    obtain ⟨v, hv, hrun | hrun⟩ := dispatch_reaches (k := .command) hstep (hq.same.wait.trans hw) hu.answers
    · obtain ⟨x, hx, -, heq⟩ := commandOk_eq_nextByte v
      exact ⟨x, (hu.trans hv).trans (hx.handled hv.answers), .inl (heq ▸ hrun)⟩
    · have hv := hu.trans hv
      exact ⟨v, hv, .inr ⟨_, .inl (hv.feedIdx ▸ rfl), hrun⟩⟩

/-- With its dispatches answered, a byte step is over, or ends the FEED at its byte, after its one event (R139). -/
theorem byte_reaches {n : Nat} (h : AtByte s) (ha : Answers (n + 2) s) :
    ∃ v, Handled (s.eventsOf 1) n s v ∧ OverOrEnds s v := by
  obtain ⟨v, hv, hrun | hrun⟩ := dispatch_reaches (k := .event) (step_event h.wait h.busy h.phase) h.wait ha
  · have hrun : Reaches s (eventOk v) := hrun
    have hv := hv.trans ((eventOk_quiet v).handled hv.answers)
    obtain ⟨x, hx, hend⟩ := action_reaches (hrun.controlOk h.control) (hv.same.busy.trans h.busy)
      (hv.same.wait.trans h.wait) rfl hv.answers
    refine ⟨x, hv.trans hx, hend.imp hrun.trans fun ⟨w, hw, hr⟩ => ⟨w, ?_, hrun.trans hr⟩⟩
    rwa [hv.feedIdx] at hw
  · exact ⟨v, hv.mono (Nat.le_succ n), .inr ⟨_, .inl (hv.feedIdx ▸ rfl), hrun⟩⟩

/-- With both sequences empty and nothing pending, a byte step is over without an answer or a dispatch record (R105). -/
theorem byte_reaches_of_no_handlers (h : AtByte s) (hevt : s.evtSeq = []) (hcmd : s.cmdSeq = []) (hp : ¬ s.Pending) :
    ∃ v, Quiet s v ∧ ¬ v.Pending ∧ Reaches s (nextByte v) := by
  have hlookup {u : State} (hs : SameFeed s u) (k : Kind) (key : Byte) : u.lookup k key = none := by
    rw [hs.lookup]
    cases k <;> simp [State.lookup, State.seqOf, hevt, hcmd]
  have hevent : step s = .next (eventOk s) := by
    rw [step_event h.wait h.busy h.phase, dispatch_of_none (hlookup (quiet_refl s).same _ _)]
  have hrun := reaches_of_step hevent
  obtain ⟨i, hi, hstep⟩ := step_action (s := eventOk s) (hrun.controlOk h.control) h.busy h.wait rfl
  rcases exec_fetched_cases hi with ⟨hpending, -⟩ | ⟨u, hq, ⟨hu, hexec⟩ | ⟨key, p, hexec⟩⟩
  · exact absurd hpending hp
  · exact ⟨u, (eventOk_quiet s).trans hq, hu, hrun.trans (reaches_of_step (hstep.trans hexec))⟩
  · have hq := (eventOk_quiet s).trans hq
    obtain ⟨x, hx, hxp, heq⟩ := commandOk_eq_nextByte u
    rw [hexec, dispatch_of_none (hlookup hq.same _ _), heq] at hstep
    exact ⟨x, hq.trans hx, hxp, hrun.trans (reaches_of_step hstep)⟩

/-! ### The loop over the bytes -/

/-- From the byte at which `s` stands, a FEED with two answers listed per byte left ends: with full success after the
events of all bytes left, or at byte `i` after the events up to it (R121, R139). -/
theorem feed_reaches {k : Nat} (h : AtByte s) (hk : s.feedIdx.toNat + k = s.feedLen.toNat) (ha : Answers (2 * k) s) :
    ∃ v n, SameFeed s v ∧ SendsEvents (s.eventsOf n) s v ∧
      ((s.feedIdx.toNat + n = s.feedLen.toNat ∧ Reaches s (finishFeed v)) ∨
        ∃ i w, s.feedIdx.toNat + n = i.toNat + 1 ∧ i.toNat < s.feedLen.toNat ∧ (w = failWord i ∨ w = respSentinel) ∧
          Reaches s (abortFeed w v)) := by
  have hlt := h.feedIdx_lt
  induction k generalizing s with
  | zero => omega
  | succ k ih =>
    obtain ⟨v, hv, hrun | ⟨w, hw, hrun⟩⟩ := byte_reaches h ha
    · rcases byte_over h hv.same hv.feedIdx hrun with ⟨hat, hsame, hsilent, hidx⟩ | ⟨hlast, hrun⟩
      · obtain ⟨x, n, hx, hevents, hend⟩ := ih hat (by rw [hidx, hsame.feedLen]; omega) (hv.answers.congr (by simp))
          hat.feedIdx_lt
        have hevents := (hv.sends.trans (sendsEvents_zero hsilent)).trans hevents
        rw [Nat.add_zero, hsame.eventsOf, eventsOf_add, Nat.add_comm] at hevents
        rw [hidx, hsame.feedLen, Nat.add_assoc, Nat.add_comm 1] at hend
        exact ⟨x, n + 1, hsame.trans hx, hevents, hend.imp (fun ⟨hn, hr⟩ => ⟨hn, hrun.trans hr⟩)
          fun ⟨i, w, hn, hi, hw, hr⟩ => ⟨i, w, hn, hi, hw, hrun.trans hr⟩⟩
      · exact ⟨v, 1, hv.same, hv.sends, .inl ⟨hlast, hrun⟩⟩
    · exact ⟨v, 1, hv.same, hv.sends, .inr ⟨_, w, rfl, hlt, hw, hrun⟩⟩

/-- With both sequences empty and nothing pending, the FEED runs to full success (R105, R136). -/
theorem feed_reaches_of_no_handlers {k : Nat} (h : AtByte s) (hk : s.feedIdx.toNat + k = s.feedLen.toNat)
    (hevt : s.evtSeq = []) (hcmd : s.cmdSeq = []) (hp : ¬ s.Pending) :
    ∃ v, SameFeed s v ∧ Sends s v [] ∧ Reaches s (finishFeed v) := by
  induction k generalizing s with
  | zero =>
    have hlt := h.feedIdx_lt
    omega
  | succ k ih =>
    obtain ⟨v, hv, hvp, hrun⟩ := byte_reaches_of_no_handlers h hevt hcmd hp
    rcases byte_over h hv.same hv.feedIdx hrun with ⟨hat, hsame, hsilent, hidx⟩ | ⟨-, hrun⟩
    · have hnp : ¬ (nextByte v).Pending := by simpa [State.Pending] using hvp
      obtain ⟨x, hx, hsends, hend⟩ := ih hat (by rw [hidx, hsame.feedLen]; omega) (hsame.evtSeq.trans hevt)
        (hsame.cmdSeq.trans hcmd) hnp
      exact ⟨x, hsame.trans hx, (hv.sends.trans hsilent).trans hsends, hrun.trans hend⟩
    · exact ⟨v, hv.same, hv.sends, hrun⟩

/-! ### The request -/

/-- The one listed request, a FEED of `d`, is taken, and the byte step stands at index `i` in phase `p` (R120). -/
def takeFeed (d : List Byte) (i : Half) (p : Phase) (s : State) : State :=
  { s with inbox := [], busy := true, feedLen := BitVec.ofNat 16 d.length, chunk := d, feedIdx := i, phase := p }

theorem ofNat_length_toNat {d : List Byte} (hd : d.length < 65536) : (BitVec.ofNat 16 d.length).toNat = d.length := by
  rw [BitVec.toNat_ofNat, Nat.mod_eq_of_lt hd]

/-- The word of a full success is the chunk's length (R77, R136). -/
theorem SameFeed.lengthWord {d : List Byte} (h : SameFeed (takeFeed d 0 .event s) t) (hd : d.length < 65536) :
    t.feedLen.setWidth 32 = BitVec.ofNat 32 d.length := by
  apply BitVec.eq_of_toNat_eq
  rw [h.feedLen, takeFeed, BitVec.toNat_setWidth, ofNat_length_toNat hd, BitVec.toNat_ofNat]

/-- A FEED begins at byte 0 of its chunk, or ends at once if it has none (R120, R140). -/
theorem feedRequest_step {d : List Byte} (hc : s.ControlOk) (hl : s.life = .live) (hb : s.busy = false)
    (hin : s.inbox = [feedRequest d]) (hd : d.length < 65536) :
    (d = [] ∧ step s = .next (finishFeed (takeFeed d s.feedIdx s.phase s))) ∨
    (AtByte (takeFeed d 0 .event s) ∧ step s = .next (takeFeed d 0 .event s)) := by
  have hw := hc.wait_none hb
  have hstep : step s = exec (.feed (BitVec.ofNat 16 d.length) d) { s with inbox := [] } := by
    rw [step_host hw hb, hostTurn, hin]
    simp only [feedRequest, decodeRequest_feed]
  have hrun : exec (.feed (BitVec.ofNat 16 d.length) d) { s with inbox := [] } = .next
      (if BitVec.ofNat 16 d.length = 0 then finishFeed (takeFeed d s.feedIdx s.phase s) else takeFeed d 0 .event s) :=
    (checkLive_of_live (s := { s with inbox := [] }) hb hl).trans (if_pos (ofNat_length_toNat hd).symm)
  rw [hrun] at hstep
  split at hstep
  · next h0 =>
    have hlen := ofNat_length_toNat hd
    rw [h0] at hlen
    exact .inl ⟨List.length_eq_zero_iff.mp hlen.symm, hstep⟩
  · exact .inr ⟨⟨step_controlOk hc hstep, rfl, hw, rfl⟩, hstep⟩

/-- A FEED with two answers listed per byte ends, whatever the answers are (R137, R139). -/
theorem feedRequest_reaches {d : List Byte} (hc : s.ControlOk) (hl : s.life = .live) (hb : s.busy = false)
    (hin : s.inbox = [feedRequest d]) (hd : d.length < 65536) (ha : Answers (2 * d.length) s) :
    ∃ v n, SameFeed (takeFeed d 0 .event s) v ∧ SendsEvents (s.eventsOf n) s v ∧
      ((n = d.length ∧ Reaches s (finishFeed v)) ∨
        ∃ i w, n = i.toNat + 1 ∧ i.toNat < d.length ∧ (w = failWord i ∨ w = respSentinel) ∧
          Reaches s (abortFeed w v)) := by
  rcases feedRequest_step hc hl hb hin hd with ⟨rfl, hstep⟩ | ⟨hat, hstep⟩
  · exact ⟨takeFeed [] s.feedIdx s.phase s, 0, ⟨rfl, rfl, rfl, rfl, rfl, rfl, rfl⟩,
      ⟨[], sends_nil rfl, (ite_self 0).symm⟩, .inl ⟨rfl, reaches_of_step hstep⟩⟩
  · have hlen : (takeFeed d 0 .event s).feedLen.toNat = d.length := ofNat_length_toNat hd
    have hidx : (takeFeed d 0 .event s).feedIdx.toNat = 0 := rfl
    obtain ⟨v, n, hsame, hevents, hend⟩ := feed_reaches (k := d.length) hat (by omega) ha
    rw [hlen, hidx, Nat.zero_add] at hend
    exact ⟨v, n, hsame, hevents, hend.imp (fun ⟨hn, hr⟩ => ⟨hn, .head hstep hr⟩)
      fun ⟨i, w, hn, hi, hw, hr⟩ => ⟨i, w, hn, hi, hw, .head hstep hr⟩⟩

/-- A FEED with both sequences empty and nothing pending succeeds (R105, R136). -/
theorem feedRequest_reaches_of_no_handlers {d : List Byte} (hc : s.ControlOk) (hl : s.life = .live)
    (hb : s.busy = false) (hin : s.inbox = [feedRequest d]) (hd : d.length < 65536) (hevt : s.evtSeq = [])
    (hcmd : s.cmdSeq = []) (hp : ¬ s.Pending) :
    ∃ v, SameFeed (takeFeed d 0 .event s) v ∧ Sends s v [] ∧ Reaches s (finishFeed v) := by
  rcases feedRequest_step hc hl hb hin hd with ⟨rfl, hstep⟩ | ⟨hat, hstep⟩
  · exact ⟨takeFeed [] s.feedIdx s.phase s, ⟨rfl, rfl, rfl, rfl, rfl, rfl, rfl⟩, sends_nil rfl, reaches_of_step hstep⟩
  · have hlen : (takeFeed d 0 .event s).feedLen.toNat = d.length := ofNat_length_toNat hd
    have hidx : (takeFeed d 0 .event s).feedIdx.toNat = 0 := rfl
    obtain ⟨v, hsame, hsends, hr⟩ := feed_reaches_of_no_handlers (k := d.length) hat (by omega) hevt hcmd hp
    exact ⟨v, hsame, hsends, .head hstep hr⟩

end

end Sys2Proof.Machine

/-! Proofs about the registry and the dispatch arbiter: whom a dispatch goes to, when one is made, and that a FEED whose
dispatches are answered ends (R104 to R111, R122, R125, R131, R139). -/

namespace Sys2Proof.Proofs.Dispatch

open Sys2Proof.Machine

/-- Listing inputs for the two other agents changes nothing the invariant reads. -/
theorem controlOk_of_inputs {s : State} (hs : s.Inv) (inbox : List Request) (agent : List AgentAct) :
    ({ s with inbox := inbox, agent := agent } : State).ControlOk := by
  obtain ⟨hcontrol, -⟩ := inv_iff.mp hs
  exact ⟨hcontrol.decoder, hcontrol.feed, hcontrol.wait⟩

/-- Settles O47: the FEED is accepted, and the loop over its bytes, at most two answers a byte, ends it. -/
theorem answeredFeedEnds : Obligations.AnsweredFeedEnds := by
  intro s d as hs hl hb hd has
  obtain ⟨v, n, hsame, ⟨ds, ⟨new, hout, hresp, rfl⟩, hcount⟩, ⟨rfl, m, hm⟩ | ⟨i, w, rfl, hi, hw, m, hm⟩⟩ :=
    feedRequest_reaches (controlOk_of_inputs hs [feedRequest d] (as.map .answer)) hl hb rfl hd ⟨as, rfl, has⟩
  · exact ⟨m, _, new, _, hm, rfl, hsame.inbox, congrArg (· ++ _) hout, hresp,
      .inl ⟨hsame.lengthWord hd, congrArg (· + 1) hsame.feedsDone, (eventsSent_eq new).trans hcount⟩⟩
  · exact ⟨m, _, new, w, hm, rfl, hsame.inbox, congrArg (· ++ _) hout, hresp,
      .inr ⟨i.toNat, hi, hw, hsame.feedsDone, (eventsSent_eq new).trans hcount⟩⟩

/-- Settles O48: with nobody to dispatch to, the FEED is accepted and runs to full success. -/
theorem feedWithoutHandlersSucceeds : Obligations.FeedWithoutHandlersSucceeds := by
  intro s d hs hl hb hevt hcmd hp hd
  obtain ⟨v, hsame, ⟨new, hout, hresp, hdisp⟩, m, hm⟩ :=
    feedRequest_reaches_of_no_handlers (controlOk_of_inputs hs [feedRequest d] s.agent) hl hb rfl hd
      (by simp [State.evtSeq, hevt]) (by simp [State.cmdSeq, hcmd]) hp
  exact ⟨m, _, new, hm, rfl, hsame.inbox, hsame.lengthWord hd ▸ congrArg (· ++ _) hout, hresp, hdisp,
    congrArg (· + 1) hsame.feedsDone⟩

/-- Settles O10: the lookup of key 1 among the event entries finds none, or the first. -/
theorem eventDispatchComesFirst : Obligations.EventDispatchComesFirst := by
  intro s hw hb hp
  have hstep := step_event hw hb hp
  refine ⟨fun hnone => ?_, fun j e hj hkey hfirst => ?_⟩
  · rw [hstep, dispatch_of_none ((lookup_none_iff s .event evtChunk).mpr hnone)]
    rfl
  · have hfound : s.lookup .event evtChunk = some e := lookup_of_first hj hkey hfirst
    rw [hstep, dispatch_of_some hfound]
    rfl

/-- Settles O11: the first entry with the key is the one the lookup finds. -/
theorem firstMatchingEntryIsDispatched : Obligations.FirstMatchingEntryIsDispatched := by
  intro k key p onOk s j e hj hkey hfirst
  rw [dispatch_of_some (lookup_of_first hj hkey hfirst)]
  cases k <;> rfl

/-- Settles O17: a matched command is sent, an unmatched one is the Ok of an idle decoder, and then the FEED goes on or
ends. -/
theorem fixedZeroDispatchesAtOnce : Obligations.FixedZeroDispatchesAtOnce := by
  intro b s hv
  have hexec : exec (.streamFixed0 b) s = .next (dispatch .command b [] commandOk s) := rfl
  refine ⟨fun j e hj hkey hfirst => ?_, fun hnone => ?_⟩
  · rw [hexec, dispatch_of_some (lookup_of_first (k := .command) hj hkey hfirst)]
    rfl
  · have hok : commandOk s = nextByte s := by simp [commandOk, hv]
    rw [hexec, dispatch_of_none ((lookup_none_iff s .command b).mpr hnone), hok]
    exact ⟨fun hmore => congrArg _ (nextByte_of_more hmore),
      fun hlast => congrArg _ (nextByte_of_last (Nat.not_lt.mpr hlast))⟩

/-- The payload after the append is the bytes so far and the new one (R130, R131). -/
theorem payload_appendByte {s : State} (b : Byte) (hlt : s.fill.val < accCap) :
    (appendByte b s).payload = s.acc.toList.take s.fill.val ++ [b] := by
  have hset : (appendByte b s).acc.toList = s.acc.toList.set s.fill.val b := by simp
  have hlen : s.fill.val < (s.acc.toList.set s.fill.val b).length := by simpa using hlt
  have hfill : (appendByte b s).fill.val = s.fill.val + 1 := fill_succ_val hlt
  rw [State.payload, hset, hfill, List.take_succ_eq_append_getElem hlen, List.getElem_set_self,
    List.take_set_of_le (Nat.le_refl _)]

/-- Settles O20: the append, and then by whether it completes the payload and whom the command goes to. -/
theorem payloadByteIsAppended : Obligations.PayloadByteIsAppended := by
  intro b s n hv hn hlt
  have hcap : s.fill.val < accCap := lt_of_lt_of_le hlt (lenOf_le_accCap hn)
  have hexec : exec (.streamPayloadByte b) s = _ := execStreamPayloadByte_of_lt (b := b) hcap
  rw [hexec]
  refine ⟨fun hshort => ?_, fun hfull => ?_⟩
  · rw [if_neg (by rw [hn]; simp; omega)]
    exact ⟨fun hmore => congrArg _ (nextByte_of_more (s := appendByte b s) hmore),
      fun hlast => congrArg _ (nextByte_of_last (s := appendByte b s) (Nat.not_lt.mpr hlast))⟩
  · have hplen : (s.acc.toList.take s.fill.val ++ [b]).length = n := by
      rw [← payload_appendByte b hcap, payload_length]
      exact (fill_succ_val hcap).trans hfull
    rw [if_pos (by rw [hn, hfull])]
    refine ⟨fun j e hj hkey hfirst => ?_, fun hnone => ?_⟩
    · rw [dispatch_of_some (lookup_of_first (s := appendByte b s) (k := .command) hj hkey hfirst),
        payload_appendByte b hcap, ← hplen]
      rfl
    · rw [dispatch_of_none ((lookup_none_iff (appendByte b s) .command s.curOp).mpr hnone),
        commandOk_eq (s := appendByte b s) (by simp [hv])]
      exact ⟨fun hmore => congrArg _ (nextByte_of_more (s := clearCommand (appendByte b s)) hmore),
        fun hlast => congrArg _ (nextByte_of_last (s := clearCommand (appendByte b s)) (Nat.not_lt.mpr hlast))⟩

/-- Settles O9: the agent whose turn it is has nothing listed. -/
theorem nothingHappensWithoutInput : Obligations.NothingHappensWithoutInput := by
  refine ⟨fun s hw hb hin => ?_, fun s hw ha => ?_⟩
  · rw [step_host hw hb, hostTurn, hin]
  · rw [step_agent hw, agentTurn_of_nil ha]

/-- Settles O12: no entry of the sequence is found. -/
theorem noMatchIsOk : Obligations.NoMatchIsOk :=
  fun k key _ _ s hnone => dispatch_of_none ((lookup_none_iff s k key).mpr hnone)

/-- Settles O14: an Ok releases `wait`, and the event's caller goes on to the action. -/
theorem eventOkGoesOnToTheByte : Obligations.EventOkGoesOnToTheByte := by
  intro s rest hw ha
  rw [step_agent (by simp [hw]), agentTurn_of_answer ha,
    receiveAnswer_ok (s := { s with agent := rest }) (k := .event) hw]
  rfl

end Sys2Proof.Proofs.Dispatch

/-! What a byte sequence comes to in the stream decoder when every handler answers Ok, apart from the chunks it is cut
into (R124 to R132, R138). -/

namespace Sys2Proof.Machine

section
variable {s t : State}

/-- What the bytes fed so far have come to (R138): the pending opcode with its payload, the dispatch records sent, and
the reports without their index. -/
@[ext] structure Progress where
  pending : Option (Byte × List Byte)
  sent    : List DispatchRecord
  reports : List (Byte × Byte)

def State.progress (s : State) : Progress where
  pending := if s.curValid then some (s.curOp, s.payload) else none
  sent := dispatches s.out
  reports := reportsByByte s.out

namespace Progress

/-! ### The decoder as a function of its bytes -/

section
variable (c : Config) (find : Kind → Byte → Option Entry) (x : Progress)

/-- A dispatch, by what its lookup finds (R104, R105, R107). -/
def send (k : Kind) (key : Byte) (p : List Byte) : Progress :=
  { x with sent := x.sent ++ ((find k key).map (dispatchRecord k key p)).toList }

def report (code b : Byte) : Progress := { x with reports := x.reports ++ [(code, b)] }

/-- A byte's own action, with an Ok to the command it completes (R124 to R132). -/
def act (b : Byte) : Progress :=
  match x.pending with
  | none =>
    match c.schema b with
    | .invalid => x.report codeUnknown b
    | .dataBlock => x.report codeDataBlock b
    | .fixed n => if n = 0 then x.send find .command b [] else { x with pending := some (b, []) }
  | some (op, p) =>
    if c.lenOf op = some (p.length + 1) then { x.send find .command op (p ++ [b]) with pending := none }
    else { x with pending := some (op, p ++ [b]) }

/-- A whole byte step: the event and then the action (R121, R122). -/
def byte (b : Byte) : Progress := (x.send find .event evtChunk []).act c find b

def bytes (l : List Byte) : Progress := l.foldl (byte c find) x

theorem bytes_cons (b : Byte) (l : List Byte) : x.bytes c find (b :: l) = (x.byte c find b).bytes c find l :=
  List.foldl_cons ..

theorem bytes_append (l l' : List Byte) : x.bytes c find (l ++ l') = (x.bytes c find l).bytes c find l' :=
  List.foldl_append

end

section
variable {c : Config} {find : Kind → Byte → Option Entry} {x : Progress}

theorem send_of_none {k : Kind} {key : Byte} (h : find k key = none) (p : List Byte) : x.send find k key p = x := by
  simp [send, h]

theorem send_of_some {k : Kind} {key : Byte} {e : Entry} (h : find k key = some e) (p : List Byte) :
    x.send find k key p = { x with sent := x.sent ++ [dispatchRecord k key p e] } := by
  simp [send, h]

theorem act_of_invalid {b : Byte} (hx : x.pending = none) (hb : c.schema b = .invalid) :
    x.act c find b = x.report codeUnknown b := by
  simp only [act, hx, hb]

theorem act_of_dataBlock {b : Byte} (hx : x.pending = none) (hb : c.schema b = .dataBlock) :
    x.act c find b = x.report codeDataBlock b := by
  simp only [act, hx, hb]

theorem act_of_fixed0 {b : Byte} (hx : x.pending = none) (hb : c.schema b = .fixed 0) :
    x.act c find b = x.send find .command b [] := by
  simp only [act, hx, hb, if_true]

theorem act_of_fixedN {b : Byte} {n : Fin 12} (hx : x.pending = none) (hb : c.schema b = .fixed n) (hn : n ≠ 0) :
    x.act c find b = { x with pending := some (b, []) } := by
  simp only [act, hx, hb, if_neg hn]

theorem act_of_full {op : Byte} {p : List Byte} (hx : x.pending = some (op, p))
    (hn : c.lenOf op = some (p.length + 1)) (b : Byte) :
    x.act c find b = { x.send find .command op (p ++ [b]) with pending := none } := by
  simp only [act, hx, if_pos hn]

theorem act_of_short {op : Byte} {p : List Byte} (hx : x.pending = some (op, p))
    (hn : c.lenOf op ≠ some (p.length + 1)) (b : Byte) :
    x.act c find b = { x with pending := some (op, p ++ [b]) } := by
  simp only [act, hx, if_neg hn]

/-- With no event entry for key 1, a byte step is the byte's own action (R105). -/
theorem byte_of_no_event (h : find .event evtChunk = none) (b : Byte) : x.byte c find b = x.act c find b := by
  rw [byte, send_of_none h]

/-! ### How many records are sent -/

/-- `y` has sent the records of `x` and at most `m` more. -/
def SendsUpTo (m : Nat) (x y : Progress) : Prop := x.sent.length ≤ y.sent.length ∧ y.sent.length ≤ x.sent.length + m

theorem SendsUpTo.trans {l m : Nat} {y z : Progress} (h : SendsUpTo l x y) (h' : SendsUpTo m y z) :
    SendsUpTo (l + m) x z := by
  unfold SendsUpTo at *
  omega

theorem sendsUpTo_of_sent_eq {y : Progress} (h : y.sent = x.sent) : SendsUpTo 1 x y := by
  simp [SendsUpTo, h]

/-- A dispatch sends at most one record (R106). -/
theorem send_sendsUpTo (k : Kind) (key : Byte) (p : List Byte) : SendsUpTo 1 x (x.send find k key p) := by
  cases h : find k key with
  | none => exact sendsUpTo_of_sent_eq (by rw [send_of_none h])
  | some e => simp [send_of_some h, SendsUpTo]

theorem act_sendsUpTo (b : Byte) : SendsUpTo 1 x (x.act c find b) := by
  unfold act
  split
  · split
    · exact sendsUpTo_of_sent_eq rfl
    · exact sendsUpTo_of_sent_eq rfl
    · split
      · exact send_sendsUpTo .command b []
      · exact sendsUpTo_of_sent_eq rfl
  · split
    · exact send_sendsUpTo (x := x) .command _ _
    · exact sendsUpTo_of_sent_eq rfl

theorem byte_sendsUpTo (b : Byte) : SendsUpTo 2 x (x.byte c find b) :=
  (send_sendsUpTo .event evtChunk []).trans (act_sendsUpTo b)

theorem bytes_sendsUpTo (l : List Byte) : SendsUpTo (2 * l.length) x (x.bytes c find l) := by
  induction l generalizing x with
  | nil => exact ⟨Nat.le_refl _, Nat.le_refl _⟩
  | cons b l ih =>
    rw [bytes_cons, List.length_cons, Nat.mul_succ, Nat.add_comm]
    exact (byte_sendsUpTo b).trans ih

/-! ### A whole command -/

/-- The payload bytes that complete a pending command dispatch it with its whole payload (R130, R131, R132). -/
theorem bytes_of_pending {op : Byte} {q p : List Byte} (hevt : find .event evtChunk = none)
    (hx : x.pending = some (op, q)) (hn : c.lenOf op = some (q.length + p.length)) (hp : p ≠ []) :
    x.bytes c find p = { x.send find .command op (q ++ p) with pending := none } := by
  induction p generalizing q x with
  | nil => exact absurd rfl hp
  | cons b p ih =>
    rw [bytes_cons, byte_of_no_event hevt]
    cases p with
    | nil => exact act_of_full hx hn b
    | cons b' p =>
      rw [act_of_short hx (by rw [hn]; simp) b]
      refine (ih rfl (by rw [hn]; simp; omega) (List.cons_ne_nil _ _)).trans ?_
      simp [send]

/-- An idle decoder fed an opcode and its whole payload dispatches the command and is idle again (R129 to R132). -/
theorem bytes_of_command {op : Byte} {p : List Byte} (hevt : find .event evtChunk = none) (hx : x.pending = none)
    (hn : c.lenOf op = some p.length) (hp : p ≠ []) : x.bytes c find (op :: p) = x.send find .command op p := by
  obtain ⟨-, k, hk, hlen⟩ := lenOf_eq_some hn
  have hk0 : k ≠ 0 := by
    rintro rfl
    exact hp (List.length_eq_zero_iff.mp hlen.symm)
  rw [bytes_cons, byte_of_no_event hevt, act_of_fixedN hx hk hk0]
  refine (bytes_of_pending hevt rfl (by simpa using hn) hp).trans ?_
  ext1 <;> simp [send, hx]

end

end Progress
end

end Sys2Proof.Machine

/-! The machine's byte steps and FEEDs, every dispatch answered Ok, are the function of the bytes that `Progress` says
(R120 to R136). -/

namespace Sys2Proof.Machine

section
variable {s t u : State}

/-! ### The progress of a state, by operation -/

@[simp] theorem reportsByByte_append (l l' : List Output) :
    reportsByByte (l ++ l') = reportsByByte l ++ reportsByByte l' :=
  List.filterMap_append

/-- Records of which none is a response or a report are dispatch records. -/
theorem eq_map_dispatches {l : List Output} (hresp : responses l = []) (hrep : reportsByByte l = []) :
    l = (dispatches l).map .dispatch := by
  induction l with
  | nil => rfl
  | cons o l ih =>
    cases o with
    | response w => exact absurd hresp (List.cons_ne_nil _ _)
    | report r => exact absurd hrep (List.cons_ne_nil _ _)
    | dispatch r => exact congrArg _ (ih hresp hrep)

theorem idle_iff : s.curValid = false ↔ s.progress.pending = none := by
  simp [State.progress]

theorem progress_of_idle (hv : s.curValid = false) : s.progress.pending = none := idle_iff.mp hv

theorem progress_of_pending (hv : s.curValid = true) : s.progress.pending = some (s.curOp, s.payload) := by
  simp [State.progress, hv]

theorem eventOk_progress (s : State) : (eventOk s).progress = s.progress := rfl

theorem report_progress (code b : Byte) (s : State) : (report code b s).progress = s.progress.report code b := by
  simp [State.progress, State.payload, Progress.report, dispatches, reportsByByte]

theorem startCommand_progress (op : Byte) (s : State) :
    (startCommand op s).progress = { s.progress with pending := some (op, []) } := rfl

theorem clearCommand_progress (s : State) : (clearCommand s).progress = { s.progress with pending := none } := rfl

theorem appendByte_progress (hv : s.curValid = true) (hlt : s.fill.val < accCap) (b : Byte) :
    (appendByte b s).progress = { s.progress with pending := some (s.curOp, s.payload ++ [b]) } := by
  ext1
  · rw [progress_of_pending (s := appendByte b s) hv, Proofs.Dispatch.payload_appendByte b hlt]
    rfl
  · rfl
  · rfl

theorem finishFeed_progress (s : State) : (finishFeed s).progress = s.progress := by
  simp [State.progress, State.payload, dispatches, reportsByByte]

theorem nextByte_progress (s : State) : (nextByte s).progress = s.progress := by
  rcases nextByte_cases s with ⟨-, heq⟩ | ⟨-, heq⟩ <;> rw [heq]
  · rfl
  · exact finishFeed_progress s

/-- Appended records that are no responses and bring no report are those by which the sent records grew. -/
theorem new_eq_of_progress {new : List Output} {ds : List DispatchRecord} (hout : t.out = s.out ++ new)
    (hresp : responses new = []) (hsent : t.progress.sent = s.progress.sent ++ ds)
    (hrep : t.progress.reports = s.progress.reports) : new = ds.map .dispatch := by
  simp only [State.progress, hout, dispatches_append, reportsByByte_append, List.append_cancel_left_eq,
    List.append_right_eq_self] at hsent hrep
  rw [← hsent]
  exact eq_map_dispatches hresp hrep

/-- In a consistent decoder the pending opcode and its payload determine the decoder state (R23, R24, R31). -/
theorem decoder_of_progress (hs : s.DecoderOk) (ht : t.DecoderOk) (h : s.progress.pending = t.progress.pending) :
    s.curValid = t.curValid ∧ s.curOp = t.curOp ∧ s.fill = t.fill ∧ s.payload = t.payload := by
  cases hv : s.curValid with
  | false =>
    have hv' : t.curValid = false := idle_iff.mpr (h ▸ progress_of_idle hv)
    obtain ⟨hfill, hop⟩ := hs.1 hv
    obtain ⟨hfill', hop'⟩ := ht.1 hv'
    refine ⟨hv'.symm, hop.trans hop'.symm, hfill.trans hfill'.symm, ?_⟩
    simp [State.payload, hfill, hfill']
  | true =>
    have hv' : t.curValid = true := by
      by_contra hidle
      rw [progress_of_pending hv, progress_of_idle (by simpa using hidle)] at h
      cases h
    rw [progress_of_pending hv, progress_of_pending hv'] at h
    obtain ⟨hop, hpay⟩ : s.curOp = t.curOp ∧ s.payload = t.payload := by simpa using h
    exact ⟨hv'.symm, hop, Fin.ext (by rw [← payload_length, hpay, payload_length]), hpay⟩

/-- Whether a command is completion-pending shows in the progress (R33). -/
theorem pending_iff : s.Pending ↔ ∃ op p, s.progress.pending = some (op, p) ∧ s.cfg.lenOf op = some p.length := by
  constructor
  · rintro ⟨hv, hfull⟩
    exact ⟨_, _, progress_of_pending hv, by rw [payload_length, hfull]⟩
  · rintro ⟨op, p, hpend, hfull⟩
    cases hv : s.curValid with
    | false => simp [progress_of_idle hv] at hpend
    | true =>
      obtain ⟨rfl, rfl⟩ : s.curOp = op ∧ s.payload = p := by simpa [progress_of_pending hv] using hpend
      exact ⟨hv, by rw [hfull, payload_length]⟩

/-! ### Parts of a byte step -/

/-- The Ok answers listed, and nothing else listed, suffice until `N` records have been sent. -/
def OksUntil (N : Nat) (s : State) : Prop :=
  ∃ k, s.agent = List.replicate k (.answer .ok) ∧ N ≤ s.progress.sent.length + k

theorem OksUntil.congr {N : Nat} (h : OksUntil N s) (hagent : t.agent = s.agent)
    (hsent : t.progress.sent = s.progress.sent) : OksUntil N t := by
  obtain ⟨k, hk, hN⟩ := h
  exact ⟨k, hagent.trans hk, by rwa [hsent]⟩

/-- A part of a running FEED, with its dispatches answered Ok: it brings the decoder to `x` and leaves Ok answers until
`N` records have been sent. -/
structure Served (N : Nat) (s t : State) (x : Progress) : Prop where
  same : SameFeed s t
  life : t.life = s.life
  cfg : t.cfg = s.cfg
  chunk : t.chunk = s.chunk
  sends : ∃ ds, Sends s t ds
  oks : OksUntil N t
  progress : t.progress = x

theorem Served.trans {N : Nat} {x y : Progress} (h : Served N s t x) (h' : Served N t u y) : Served N s u y := by
  obtain ⟨ds, hds⟩ := h.sends
  obtain ⟨ds', hds'⟩ := h'.sends
  exact ⟨h.same.trans h'.same, h'.life.trans h.life, h'.cfg.trans h.cfg, h'.chunk.trans h.chunk, ⟨_, hds.trans hds'⟩,
    h'.oks, h'.progress⟩

theorem Served.lookup {N : Nat} {x : Progress} (h : Served N s t x) : t.lookup = s.lookup :=
  funext₂ h.same.lookup

/-- A part that dispatches nothing keeps the answers for the records still to come. -/
theorem Quiet.served {N : Nat} (h : Quiet s t) (hlife : t.life = s.life) (hcfg : t.cfg = s.cfg)
    (hchunk : t.chunk = s.chunk) (hoks : OksUntil N s) : Served N s t t.progress := by
  obtain ⟨new, hout, -, hnew⟩ := h.sends
  have hsent : t.progress.sent = s.progress.sent := by simp [State.progress, hout, hnew]
  exact ⟨h.same, hlife, hcfg, hchunk, ⟨_, h.sends⟩, hoks.congr h.agent hsent, rfl⟩

theorem quiet_served {N : Nat} (hoks : OksUntil N s) : Served N s s s.progress :=
  (quiet_refl s).served rfl rfl rfl hoks

/-- A dispatch with an Ok listed for it goes on with its caller's Ok (R104 to R109). -/
theorem dispatch_served {N : Nat} {k : Kind} {key : Byte} {p : List Byte}
    (hstep : step s = .next (dispatch k key p k.onOk u)) (hw : u.wait = .none) (hoks : OksUntil N u)
    (hN : (u.progress.send u.lookup k key p).sent.length ≤ N) :
    ∃ v, Served N u v (u.progress.send u.lookup k key p) ∧ v.feedIdx = u.feedIdx ∧ Reaches s (k.onOk v) := by
  rcases dispatch_cases k key p k.onOk u with ⟨e, he, heq⟩ | ⟨hnone, heq⟩ <;> rw [heq] at hstep
  · rw [Progress.send_of_some he] at hN ⊢
    obtain ⟨j, hj, hlen⟩ := hoks
    obtain ⟨j, rfl⟩ : ∃ i, j = i + 1 := Nat.exists_eq_succ_of_ne_zero (by simp at hN; omega)
    have hanswer : step (sendDispatch k key p e u) =
        .next (receiveAnswer .ok { sendDispatch k key p e u with agent := List.replicate j (.answer .ok) }) := by
      rw [step_agent k.wait_ne_none, agentTurn_of_answer (s := sendDispatch k key p e u) hj]
    rw [receiveAnswer_ok rfl] at hanswer
    have hprogress : (sendDispatch k key p e u).progress =
        { u.progress with sent := u.progress.sent ++ [dispatchRecord k key p e] } := by
      simp [State.progress, State.payload, dispatches, reportsByByte]
    refine ⟨{ sendDispatch k key p e u with agent := List.replicate j (.answer .ok), wait := .none },
      ⟨⟨rfl, hw.symm, rfl, rfl, rfl, rfl, rfl⟩, rfl, rfl, rfl, ⟨_, _, rfl, rfl, rfl⟩, ⟨j, rfl, ?_⟩, hprogress⟩, rfl,
      .head hstep (reaches_of_step hanswer)⟩
    change N ≤ (sendDispatch k key p e u).progress.sent.length + j
    simp [hprogress]
    omega
  · rw [Progress.send_of_none hnone]
    exact ⟨u, quiet_served hoks, rfl, reaches_of_step hstep⟩

/-- The byte step in which `s` stands is over, its dispatches answered Ok, with the decoder at `x`. -/
def ByteOver (N : Nat) (s : State) (x : Progress) : Prop :=
  ∃ v, Served N s v x ∧ v.feedIdx = s.feedIdx ∧ ¬ v.Pending ∧ Reaches s (nextByte v)

/-- An action that dispatches nothing. -/
theorem byteOver_of_quiet {N : Nat} (hstep : step s = .next (nextByte u)) (hu : Served N s u u.progress)
    (hidx : u.feedIdx = s.feedIdx) (hnp : ¬ u.Pending) : ByteOver N s u.progress :=
  ⟨u, hu, hidx, hnp, reaches_of_step hstep⟩

/-- An action that dispatches a command: after the Ok nothing is pending (R125, R131, R132). -/
theorem byteOver_of_command {N : Nat} {key : Byte} {p : List Byte} {x : Progress}
    (hstep : step s = .next (dispatch .command key p commandOk u)) (hw : s.wait = .none) (hu : Served N s u u.progress)
    (hidx : u.feedIdx = s.feedIdx) (hx : { u.progress.send s.lookup .command key p with pending := none } = x)
    (hN : x.sent.length ≤ N) : ByteOver N s x := by
  subst hx
  rw [← hu.lookup] at hN ⊢
  obtain ⟨v, hv, hidx', hrun⟩ := dispatch_served (k := .command) hstep (hu.same.wait.trans hw) hu.oks hN
  have hv' := hu.trans hv
  rw [← hv.progress]
  replace hrun : Reaches s (commandOk v) := hrun
  rcases commandOk_cases v with ⟨-, heq⟩ | ⟨hidle, heq⟩ <;> rw [heq] at hrun
  · exact ⟨clearCommand v, hv'.trans ((clearCommand_quiet v).served rfl rfl rfl hv.oks), hidx'.trans hidx,
      not_pending_of_idle rfl, hrun⟩
  · have hprogress : v.progress = { v.progress with pending := none } := Progress.ext (progress_of_idle hidle) rfl rfl
    exact ⟨v, hprogress ▸ hv'.trans (quiet_served hv.oks), hidx'.trans hidx, not_pending_of_idle hidle, hrun⟩

/-! ### The byte's own action -/

/-- The byte step stands after its event dispatch, at the chunk's byte `b` (R121). -/
structure AtAction (b : Byte) (s : State) : Prop where
  control : s.ControlOk
  busy : s.busy = true
  wait : s.wait = .none
  phase : s.phase = .action
  byte : s.chunk[s.feedIdx.toNat]? = some b

theorem AtAction.step_eq {b : Byte} {i : Instr} (h : AtAction b s) (hi : decodeStream s.cfg s.decState b = .ok i) :
    step s = exec i s := by
  obtain ⟨-, -, hstream⟩ := Proofs.Scope.stepRunsTheDecodedOperation
  exact hstream s b i h.wait h.busy h.phase h.byte hi

/-- An opcode byte, by its class (R124 to R129). -/
theorem opcode_over {N : Nat} {b : Byte} (h : AtAction b s) (hv : s.curValid = false) (hoks : OksUntil N s)
    (hN : (s.progress.act s.cfg s.lookup b).sent.length ≤ N) : ByteOver N s (s.progress.act s.cfg s.lookup b) := by
  have hx := progress_of_idle hv
  obtain ⟨hinvalid, hdata, hfixed0, hfixedN⟩ := Proofs.InstanceState.idleByteIsClassified s b hv
  cases hb : s.cfg.schema b with
  | invalid =>
    rw [Progress.act_of_invalid hx hb, ← report_progress]
    exact byteOver_of_quiet (h.step_eq (hinvalid hb)) ((report_quiet s codeUnknown b).served rfl rfl rfl hoks) rfl
      (not_pending_of_idle hv)
  | dataBlock =>
    rw [Progress.act_of_dataBlock hx hb, ← report_progress]
    exact byteOver_of_quiet (h.step_eq (hdata hb)) ((report_quiet s codeDataBlock b).served rfl rfl rfl hoks) rfl
      (not_pending_of_idle hv)
  | fixed n =>
    by_cases hn : n = 0
    · subst hn
      rw [Progress.act_of_fixed0 hx hb] at hN ⊢
      exact byteOver_of_command (h.step_eq (hfixed0 hb)) h.wait (quiet_served hoks) rfl
        (Progress.ext hx.symm rfl rfl) hN
    · have hstart : step s = .next (nextByte (startCommand b s)) := by
        rw [h.step_eq (hfixedN n hb hn)]
        split
        · next h67 => exact h67 ▸ rfl
        · rfl
      rw [Progress.act_of_fixedN hx hb hn, ← startCommand_progress]
      refine byteOver_of_quiet hstart ((startCommand_quiet s b).served rfl rfl rfl hoks) rfl
        (startCommand_not_pending (n := n.val) (by simp [Config.lenOf, hb]) ?_)
      exact Nat.one_le_iff_ne_zero.mpr (Fin.val_ne_zero_iff.mpr hn)

/-- A byte in Accumulating, by whether it completes the payload (R130 to R132, R135). -/
theorem payload_over {N : Nat} {b : Byte} (h : AtAction b s) (hv : s.curValid = true) (hnp : ¬ s.Pending)
    (hoks : OksUntil N s) (hN : (s.progress.act s.cfg s.lookup b).sent.length ≤ N) :
    ByteOver N s (s.progress.act s.cfg s.lookup b) := by
  have hd := h.control.decoder_of_busy h.busy
  have hx := progress_of_pending hv
  have hfull : s.cfg.lenOf s.curOp ≠ some s.fill.val := fun hfull => hnp ⟨hv, hfull⟩
  obtain ⟨n, hn, -, hle⟩ := decoderOk_pending hd hv
  have hlt : s.fill.val < accCap :=
    lt_of_lt_of_le (lt_of_le_of_ne hle fun heq => hfull (heq ▸ hn)) (lenOf_le_accCap hn)
  have hdecode := Proofs.Memory.payloadBytesAreNotClassified s b hd hv
  rw [if_neg hfull] at hdecode
  have hstep := (h.step_eq hdecode).trans (execStreamPayloadByte_of_lt hlt)
  have happend := (appendByte_quiet s b).served rfl rfl rfl hoks
  have hprogress := appendByte_progress hv hlt b
  by_cases hlast : s.cfg.lenOf s.curOp = some (s.fill.val + 1)
  · rw [Progress.act_of_full hx (by rw [hlast, payload_length])] at hN ⊢
    rw [if_pos hlast, Proofs.Dispatch.payload_appendByte b hlt] at hstep
    refine byteOver_of_command hstep h.wait happend rfl ?_ hN
    rw [hprogress]
    rfl
  · rw [Progress.act_of_short hx (by rwa [payload_length]), ← hprogress]
    rw [if_neg hlast] at hstep
    refine byteOver_of_quiet hstep happend rfl fun ⟨_, hpend⟩ => hlast ?_
    simpa [fill_succ_val hlt] using hpend

theorem action_over {N : Nat} {b : Byte} (h : AtAction b s) (hnp : ¬ s.Pending) (hoks : OksUntil N s)
    (hN : (s.progress.act s.cfg s.lookup b).sent.length ≤ N) : ByteOver N s (s.progress.act s.cfg s.lookup b) := by
  cases hv : s.curValid with
  | false => exact opcode_over h hv hoks hN
  | true => exact payload_over h hv hnp hoks hN

/-! ### Byte steps, FEEDs and lists of FEEDs -/

/-- A whole byte step (R121, R122). -/
theorem byte_served {N : Nat} {b : Byte} (h : AtByte s) (hb : s.chunk[s.feedIdx.toNat]? = some b) (hnp : ¬ s.Pending)
    (hoks : OksUntil N s) (hN : (s.progress.byte s.cfg s.lookup b).sent.length ≤ N) :
    ByteOver N s (s.progress.byte s.cfg s.lookup b) := by
  obtain ⟨v, hv, hidx, hrun⟩ := dispatch_served (k := .event) (step_event h.wait h.busy h.phase) h.wait hoks
    ((Progress.act_sendsUpTo b).1.trans hN)
  replace hrun : Reaches s (eventOk v) := hrun
  have hev := hv.trans ((eventOk_quiet v).served rfl rfl rfl hv.oks)
  have hnp' : ¬ (eventOk v).Pending := by
    rw [pending_iff] at hnp ⊢
    rwa [hev.cfg, eventOk_progress, hv.progress]
  have hat : AtAction b (eventOk v) := ⟨hrun.controlOk h.control, hev.same.busy.trans h.busy,
    hev.same.wait.trans h.wait, rfl, by rw [hev.chunk]; exact hidx ▸ hb⟩
  have hact : (eventOk v).progress.act (eventOk v).cfg (eventOk v).lookup b = s.progress.byte s.cfg s.lookup b := by
    rw [hev.cfg, hev.lookup, eventOk_progress, hv.progress, Progress.byte]
  obtain ⟨w, hw, hidx', hwp, hrun'⟩ := action_over hat hnp' hev.oks (hact ▸ hN)
  exact ⟨w, hact ▸ hev.trans hw, hidx'.trans hidx, hwp, hrun.trans hrun'⟩

/-- Going on to the next byte leaves the decoder and the answers as they are. -/
theorem nextByte_served {N : Nat} {x : Progress} (h : Served N s t x) (hsame : SameFeed s (nextByte t))
    (hsilent : Sends t (nextByte t) []) : Served N s (nextByte t) x := by
  obtain ⟨ds, hds⟩ := h.sends
  exact ⟨hsame, by simp [h.life], by simp [h.cfg], by simp [h.chunk], ⟨_, hds.trans hsilent⟩,
    h.oks.congr (by simp) (by rw [nextByte_progress]), (nextByte_progress t).trans h.progress⟩

/-- From the byte at which `s` stands, a FEED runs through the rest of its chunk to full success (R121, R136). -/
theorem feed_served {N : Nat} {l : List Byte} (h : AtByte s) (hl : s.chunk.drop s.feedIdx.toNat = l)
    (hnp : ¬ s.Pending) (hoks : OksUntil N s) (hN : (s.progress.bytes s.cfg s.lookup l).sent.length ≤ N) :
    ∃ v, Served N s v (s.progress.bytes s.cfg s.lookup l) ∧ ¬ v.Pending ∧ Reaches s (finishFeed v) := by
  obtain ⟨-, hlen, hlt⟩ := h.control.feed h.busy
  induction l generalizing s with
  | nil =>
    have hle := List.drop_eq_nil_iff.mp hl
    omega
  | cons b l ih =>
    have hb : s.chunk[s.feedIdx.toNat]? = some b := by rw [← List.head?_drop, hl]; rfl
    have htail : s.chunk.drop (s.feedIdx.toNat + 1) = l := by rw [← List.tail_drop, hl]; rfl
    obtain ⟨v, hv, hidx, hvp, hrun⟩ := byte_served h hb hnp hoks ((Progress.bytes_sendsUpTo l).1.trans hN)
    rcases byte_over h hv.same hidx hrun with ⟨hat, hsame, hsilent, hidx'⟩ | ⟨hlast, hrun⟩
    · have hnext := nextByte_served hv hsame hsilent
      have hnp' : ¬ (nextByte v).Pending := by simpa [State.Pending] using hvp
      have hbytes : (nextByte v).progress.bytes (nextByte v).cfg (nextByte v).lookup l =
          s.progress.bytes s.cfg s.lookup (b :: l) := by
        rw [hnext.cfg, hnext.lookup, hnext.progress, Progress.bytes_cons]
      obtain ⟨-, hlen', hlt'⟩ := hat.control.feed hat.busy
      obtain ⟨w, hw, hwp, hrun'⟩ := ih hat (by rw [hnext.chunk, hidx', htail]) hnp' hnext.oks (hbytes ▸ hN) hlen' hlt'
      exact ⟨w, hbytes ▸ hnext.trans hw, hwp, hrun.trans hrun'⟩
    · obtain rfl : l = [] := by
        rw [← htail, hlast, ← hlen, List.drop_length]
      exact ⟨v, hv, hvp, hrun⟩

/-- The host may issue a FEED, and no command is completion-pending (R33, R60). -/
structure Ready (s : State) : Prop where
  control : s.ControlOk
  life : s.life = .live
  idle : s.busy = false
  notPending : ¬ s.Pending

/-- A FEED runs to full success through the bytes of its chunk (R120, R136, R140). -/
theorem feedRequest_served {N : Nat} {c : List Byte} {rest : List Request} (h : Ready s)
    (hin : s.inbox = feedRequest c :: rest) (hc : c.length < 65536) (hoks : OksUntil N s)
    (hN : (s.progress.bytes s.cfg s.lookup c).sent.length ≤ N) :
    ∃ v, Served N { takeFeed c 0 .event s with inbox := rest } v (s.progress.bytes s.cfg s.lookup c) ∧ ¬ v.Pending ∧
      Reaches s (finishFeed v) := by
  have hw := h.control.wait_none h.idle
  have hstep : step s = exec (.feed (BitVec.ofNat 16 c.length) c) { s with inbox := rest } := by
    rw [step_host hw h.idle, hostTurn, hin]
    simp only [feedRequest, decodeRequest_feed]
  have hlen := ofNat_length_toNat hc
  have hrun : exec (.feed (BitVec.ofNat 16 c.length) c) { s with inbox := rest } = .next
      (if BitVec.ofNat 16 c.length = 0 then finishFeed { takeFeed c s.feedIdx s.phase s with inbox := rest }
        else { takeFeed c 0 .event s with inbox := rest }) :=
    (checkLive_of_live (s := { s with inbox := rest }) h.idle h.life).trans (if_pos hlen.symm)
  rw [hrun] at hstep
  split at hstep
  · next h0 =>
    rw [h0] at hlen
    obtain rfl : c = [] := List.length_eq_zero_iff.mp hlen.symm
    exact ⟨{ takeFeed [] s.feedIdx s.phase s with inbox := rest },
      ⟨⟨rfl, rfl, rfl, rfl, rfl, rfl, rfl⟩, rfl, rfl, rfl, ⟨_, sends_nil rfl⟩, hoks.congr rfl rfl, rfl⟩, h.notPending,
      reaches_of_step hstep⟩
  · have hat : AtByte { takeFeed c 0 .event s with inbox := rest } := ⟨step_controlOk h.control hstep, rfl, hw, rfl⟩
    obtain ⟨v, hv, hvp, hend⟩ := feed_served hat rfl h.notPending (hoks.congr rfl rfl) hN
    exact ⟨v, hv, hvp, .head hstep hend⟩

/-- The response to a full success is the chunk's length (R77, R136). -/
theorem finishFeed_out {N : Nat} {c : List Byte} {rest : List Request} {x : Progress}
    (h : Served N { takeFeed c 0 .event s with inbox := rest } t x) (hc : c.length < 65536) :
    (finishFeed t).out = t.out ++ [.response (BitVec.ofNat 32 c.length)] := by
  have hlen : t.feedLen = BitVec.ofNat 16 c.length := h.same.feedLen
  have hword : t.feedLen.setWidth 32 = BitVec.ofNat 32 c.length := by
    apply BitVec.eq_of_toNat_eq
    rw [hlen, BitVec.toNat_setWidth, ofNat_length_toNat hc, BitVec.toNat_ofNat]
  exact hword ▸ rfl

/-- The FEEDs of the chunks `cs` have run, each to full success (R136). -/
structure Fed (cs : List (List Byte)) (s t : State) : Prop where
  ready : Ready t
  cfg : t.cfg = s.cfg
  lookup : t.lookup = s.lookup
  progress : t.progress = s.progress.bytes s.cfg s.lookup cs.flatten
  responses : responses t.out = responses s.out ++ cs.map (fun c => BitVec.ofNat 32 c.length)
  feedsDone : t.feedsDone = s.feedsDone + BitVec.ofNat 32 cs.length

/-- The bytes of a later FEED go on from where the one before left the decoder (R138). -/
theorem Fed.trans {cs ds : List (List Byte)} (h : Fed cs s t) (h' : Fed ds t u) : Fed (cs ++ ds) s u where
  ready := h'.ready
  cfg := h'.cfg.trans h.cfg
  lookup := h'.lookup.trans h.lookup
  progress := by rw [h'.progress, h.cfg, h.lookup, h.progress, List.flatten_append, Progress.bytes_append]
  responses := by rw [h'.responses, h.responses, List.map_append, List.append_assoc]
  feedsDone := by rw [h'.feedsDone, h.feedsDone, List.length_append, BitVec.ofNat_add, BitVec.add_assoc]

theorem finishFeed_fed {N : Nat} {c : List Byte} {rest : List Request} (h : Ready s)
    (ht : Served N { takeFeed c 0 .event s with inbox := rest } t (s.progress.bytes s.cfg s.lookup c))
    (hc : c.length < 65536) (hnp : ¬ t.Pending) (hrun : Reaches s (finishFeed t)) : Fed [c] s (finishFeed t) := by
  obtain ⟨ds, new, hout, hresp, -⟩ := ht.sends
  refine ⟨⟨hrun.controlOk h.control, ht.life.trans h.life, rfl, hnp⟩, ht.cfg, ht.lookup, ?_, ?_,
    congrArg (· + 1) ht.same.feedsDone⟩
  · rw [finishFeed_progress, ht.progress, List.flatten_singleton]
  · rw [finishFeed_out ht hc, responses_append, hout, responses_append, hresp, List.append_nil]
    rfl

/-- The FEEDs of a list of chunks run one after the other, each to full success (R136, R138). -/
theorem feeds_reach {N : Nat} {cs : List (List Byte)} (h : Ready s) (hin : s.inbox = cs.map feedRequest)
    (hcs : ∀ c ∈ cs, c.length < 65536) (hoks : OksUntil N s)
    (hN : (s.progress.bytes s.cfg s.lookup cs.flatten).sent.length ≤ N) :
    ∃ t, Fed cs s t ∧ t.inbox = [] ∧ Reaches s t := by
  induction cs generalizing s with
  | nil => exact ⟨s, ⟨h, rfl, rfl, rfl, by simp, by simp⟩, hin, .refl s⟩
  | cons c cs ih =>
    obtain ⟨hc, hcs⟩ := List.forall_mem_cons.mp hcs
    rw [List.flatten_cons, Progress.bytes_append] at hN
    obtain ⟨v, hv, hvp, hrun⟩ := feedRequest_served h hin hc hoks ((Progress.bytes_sendsUpTo _).1.trans hN)
    have hfed := finishFeed_fed h hv hc hvp hrun
    obtain ⟨t, ht, hempty, hrun'⟩ := ih hfed.ready hv.same.inbox hcs
      (hv.oks.congr rfl (by rw [finishFeed_progress]))
      (by rwa [hfed.cfg, hfed.lookup, hfed.progress, List.flatten_singleton])
    exact ⟨t, hfed.trans ht, hempty, hrun.trans hrun'⟩

end

end Sys2Proof.Machine

/-! Proofs about the stream decoder: what a byte does to it, and that it sees its bytes and not their chunks (R129 to
R138). -/

namespace Sys2Proof.Proofs.StreamDecoder

open Sys2Proof.Machine

/-- Settles O49: one Ok is enough, and the bytes of a whole command come to one record and an idle decoder. -/
theorem wholeCommandIsDelivered : Obligations.WholeCommandIsDelivered := by
  intro s op p e hs hl hb hv hp hn hevt hcmd
  have hne : p ≠ [] := List.length_pos_iff.mp hp
  have hlen : (op :: p).length < 65536 := by
    have := lenOf_le_accCap hn
    simp [accCap] at *
    omega
  have hbytes : s.progress.bytes s.cfg s.lookup (op :: p) = s.progress.send s.lookup .command op p :=
    Progress.bytes_of_command hevt (progress_of_idle hv) hn hne
  have hready : Ready { s with inbox := [feedRequest (op :: p)], agent := [.answer .ok] } :=
    ⟨Dispatch.controlOk_of_inputs hs _ _, hl, hb, not_pending_of_idle hv⟩
  have hN : (s.progress.bytes s.cfg s.lookup (op :: p)).sent.length ≤ s.progress.sent.length + 1 :=
    hbytes ▸ (Progress.send_sendsUpTo .command op p).2
  obtain ⟨v, hserved, -, hrun⟩ := feedRequest_served hready rfl hlen ⟨1, rfl, Nat.le_refl _⟩ hN
  have hprogress : v.progress = s.progress.send s.lookup .command op p := hserved.progress.trans hbytes
  have hidle : v.curValid = false := idle_iff.mpr (hprogress ▸ progress_of_idle hv)
  have hcontrol := hrun.controlOk hready.control
  obtain ⟨hfill, -⟩ := (hcontrol.decoder (hserved.life.trans hl)).1 hidle
  obtain ⟨ds, new, hout, hresp, -⟩ := hserved.sends
  rw [Progress.send_of_some hcmd] at hprogress
  have hnew : new = [dispatchRecord .command op p e].map .dispatch :=
    new_eq_of_progress (s := s) hout hresp (by rw [hprogress]) (by rw [hprogress])
  obtain ⟨n, hn⟩ := hrun
  refine ⟨n, _, hn, rfl, hidle, hfill, congrArg (· + 1) hserved.same.feedsDone, ?_⟩
  rw [finishFeed_out hserved hlen, hout, hnew, List.append_assoc]
  rfl

/-- Settles O50: either way of cutting, the FEEDs come to what the concatenated bytes come to. -/
theorem chunkingInvariance : Obligations.ChunkingInvariance := by
  intro s cs ds k hs hl hb hnp hflat hcs hds hk
  have hready (inbox : List Request) : Ready { s with inbox := inbox, agent := List.replicate k (.answer .ok) } :=
    ⟨Dispatch.controlOk_of_inputs hs _ _, hl, hb, hnp⟩
  have hN : (s.progress.bytes s.cfg s.lookup cs.flatten).sent.length ≤ s.progress.sent.length + k :=
    (Progress.bytes_sendsUpTo _).2.trans (Nat.add_le_add_left hk _)
  obtain ⟨t, ht, hin, n, hn⟩ := feeds_reach (hready (cs.map feedRequest)) rfl hcs ⟨k, rfl, Nat.le_refl _⟩ hN
  obtain ⟨u, hu, hin', m, hm⟩ := feeds_reach (hready (ds.map feedRequest)) rfl hds ⟨k, rfl, Nat.le_refl _⟩ (hflat ▸ hN)
  have hprogress : t.progress = u.progress := ht.progress.trans (hflat ▸ hu.progress.symm)
  obtain ⟨hv, hop, hfill, hpay⟩ := decoder_of_progress (ht.ready.control.decoder ht.ready.life)
    (hu.ready.control.decoder hu.ready.life) (congrArg Progress.pending hprogress)
  exact ⟨n, m, t, u, hn, hm, ht.ready.idle, hu.ready.idle, hin, hin', congrArg Progress.sent hprogress,
    congrArg Progress.reports hprogress, hv, hop, hfill, hpay, ht.responses, hu.responses, ht.feedsDone, hu.feedsDone⟩

/-- Settles O19: both operations start their command and go on to the next byte. -/
theorem opcodeStartsAccumulating : Obligations.OpcodeStartsAccumulating := by
  intro b s i hi
  have hexec : exec i s = .next (nextByte (startCommand b s)) := by
    rcases hi with rfl | ⟨rfl, rfl⟩ <;> rfl
  rw [hexec]
  exact ⟨fun hmore => congrArg _ (nextByte_of_more (s := startCommand b s) hmore),
    fun hlast => congrArg _ (nextByte_of_last (s := startCommand b s) (Nat.not_lt.mpr hlast))⟩

/-- Settles O21: the abort releases `wait`, which was None already. -/
theorem pendingByteEndsWithSentinel : Obligations.PendingByteEndsWithSentinel := by
  intro b s hw
  have hexec : exec (.streamPendingByte b) s = .next (respond respSentinel { s with busy := false, wait := .none }) :=
    rfl
  rw [hexec, ← hw]
  rfl

end Sys2Proof.Proofs.StreamDecoder

/-! The checks of every host request, in the order of R159, which of them apply to each operation, and that executing a
request is passing them and then running. -/

namespace Sys2Proof.Machine

section
variable (r : Request) (s : State) (run : Result)

/-- R159: the checks of request `r` in their order, before the operation runs. -/
def requestChecks : Result :=
  if s.busy = true ∧ opField r.word ≠ 6 then .refused .reentry
  else if opField r.word = 7 ∨ rsvField r.word ≠ 0 then .next (respond respIllegal s)
  else if s.life = .uninit ∧ opField r.word ≠ 0 ∧ opField r.word ≠ 6 then .refused .uninit
  else if opField r.word = 5 ∧ r.data.length ≠ (lenField r.word).toNat then .refused .countMismatch
  else run

variable {r s run}

/-- An illegal word answers ILLEGAL, after the busy check unless OP = 110 (R75). -/
theorem requestChecks_of_illegal (h : opField r.word = 7 ∨ rsvField r.word ≠ 0) :
    requestChecks r s run = if opField r.word = 6 then .next (respond respIllegal s)
      else checkBusy s (.next (respond respIllegal s)) := by
  rw [requestChecks, if_pos h]
  by_cases h6 : opField r.word = 6
  · rw [if_neg fun hre => hre.2 h6, if_pos h6]
  · rw [if_neg h6]
    exact if_congr (and_iff_left h6) rfl rfl

/-- CREATE passes the busy check only (R156). -/
theorem requestChecks_of_create (hop : opField r.word = 0) (hrsv : rsvField r.word = 0) :
    requestChecks r s run = checkBusy s run := by
  simp [requestChecks, checkBusy, hop, hrsv]

/-- STATUS_READ passes every check (R154). -/
theorem requestChecks_of_statusRead (hop : opField r.word = 6) (hrsv : rsvField r.word = 0) :
    requestChecks r s run = run := by
  simp [requestChecks, hop, hrsv]

/-- FEED passes the checks of a live instance and then the count check (R120). -/
theorem requestChecks_of_feed (hop : opField r.word = 5) (hrsv : rsvField r.word = 0) :
    requestChecks r s run =
      checkLive s (if r.data.length = (lenField r.word).toNat then run else .refused .countMismatch) := by
  simp [requestChecks, checkLive, checkBusy, hop, hrsv]

/-- RESET, DESTROY and the registrations pass the checks of a live instance (R158). -/
theorem requestChecks_of_live
    (hop : opField r.word = 1 ∨ opField r.word = 2 ∨ opField r.word = 3 ∨ opField r.word = 4)
    (hrsv : rsvField r.word = 0) :
    requestChecks r s run = checkLive s run := by
  rcases hop with hop | hop | hop | hop <;> simp [requestChecks, checkLive, checkBusy, hop, hrsv]

theorem execStatusRead_answers (s : State) (sel : Byte) : ∃ t, execStatusRead sel s = .next t := by
  cases hl : s.life with
  | live => exact ⟨_, by rw [execStatusRead, hl]⟩
  | uninit => exact ⟨_, by rw [execStatusRead, hl]⟩

/-- Every request is its checks, and past them it answers a next state (R72, R159). -/
theorem exec_request_eq_checks (c : Config) (r : Request) (s : State) :
    ∃ t, exec (decodeRequest c r) s = requestChecks r s (.next t) := by
  rcases decodeRequest_cases c r with ⟨hop, hi⟩ | ⟨-, hrsv, hi⟩ |
    ⟨hrsv, ⟨hop, hi⟩ | ⟨hop, hi⟩ | ⟨hop, hi⟩ | ⟨hop, key, h, x, hi⟩ | ⟨hop, key, h, x, hi⟩ | ⟨hop, hi⟩ | ⟨hop, hi⟩⟩ <;>
    rw [hi]
  · exact ⟨s, ((requestChecks_of_illegal (.inl hop)).trans (if_neg (by simp [hop]))).symm⟩
  · exact ⟨s, (requestChecks_of_illegal (.inr hrsv)).symm⟩
  · exact ⟨_, (requestChecks_of_create hop hrsv).symm⟩
  · exact ⟨_, (requestChecks_of_live (.inl hop) hrsv).symm⟩
  · exact ⟨_, (requestChecks_of_live (.inr (.inl hop)) hrsv).symm⟩
  · exact ⟨_, (requestChecks_of_live (.inr (.inr (.inl hop))) hrsv).symm⟩
  · exact ⟨_, (requestChecks_of_live (.inr (.inr (.inr hop))) hrsv).symm⟩
  · exact ⟨_, (requestChecks_of_feed hop hrsv).symm⟩
  · obtain ⟨t, ht⟩ := execStatusRead_answers s (keyField r.word)
    exact ⟨t, ht.trans (requestChecks_of_statusRead hop hrsv).symm⟩

end

end Sys2Proof.Machine

/-! Proof about the lifecycle requests: the order of their checks (R159). -/

namespace Sys2Proof.Proofs.Lifecycle

open Sys2Proof.Machine

/-- Settles O33: each clause is one branch of the chain of checks that every request is. -/
theorem requestChecksInOrder : Obligations.RequestChecksInOrder := by
  intro s r illegal reentry dead mismatch
  obtain ⟨t, hexec⟩ := exec_request_eq_checks s.cfg r s
  rw [hexec]
  refine ⟨fun hre => if_pos hre, fun hre hil => ?_, fun hre hil hdead => ?_, fun hre hil hdead hmis => ?_,
    fun hre hil hdead hmis => ⟨t, ?_⟩⟩
  · exact (if_neg hre).trans (if_pos hil)
  · exact (if_neg hre).trans ((if_neg hil).trans (if_pos hdead))
  · exact (if_neg hre).trans ((if_neg hil).trans ((if_neg hdead).trans (if_pos hmis)))
  · exact (if_neg hre).trans ((if_neg hil).trans ((if_neg hdead).trans (if_neg hmis)))

end Sys2Proof.Proofs.Lifecycle
